-- ==== Sys2Proof/Word.lean ====
section
/-! DEFINITION. The word types of the engine (00_scope.md R7): bytes, the two element widths of a vector, vectors,
and the widths of the command and response ports. -/

namespace Sys2Proof

/-- One byte of the output buffer (20_memory.md R50). -/
abbrev Byte := BitVec 8

/-- A 32-bit element of a vector (00_scope.md R7, the dword view). -/
abbrev Dword := BitVec 32

/-- A 64-bit element of a vector (00_scope.md R7, the quad view). -/
abbrev Quad := BitVec 64

/-- A 256-bit vector register value; also the payload of a command (00_scope.md R7, 30_encoding.md R70). -/
abbrev Vec := BitVec 256

/-- The 512-bit data value of a response (30_encoding.md R70). -/
abbrev Data := BitVec 512

/-- `f` applied `n` times, the first application innermost. -/
def iter {α : Type} (f : α → α) : Nat → α → α
  | 0, x => x
  | n + 1, x => iter f n (f x)

end Sys2Proof
end

