-- ==== Sys2Proof/Syntax.lean ====
section
/-! DEFINITION. The sixteen commands (30_encoding.md R75, opcode_table.json), one constructor per row, with the operands
their rules name; and the command as the port carries it (R70). -/

namespace Sys2Proof

/-- A command of the engine. `ARG` of a format A command is kept as the 8-bit number it is (R71, R72): which values
are legal is said by the command's rule (R75, R76) and checked by `Instr.wf`. A payload operand is what the rule uses of
the payload (R73). -/
inductive Instr where
  /-- CAPQ, capability query (R90). -/
  | capq
  /-- INIT, construct the generator from `len` seed bytes (R91). -/
  | init (len : BitVec 8) (seed : Vec)
  /-- DISPOSE, release the block (R94). -/
  | dispose
  /-- ENSURE, refill when fewer than `n` bytes are left (R132). -/
  | ensure (n : BitVec 8)
  /-- NEXTRAW, one 64-bit word of the stream (R133). -/
  | nextraw
  /-- READ256, four words (R134). -/
  | read256
  /-- READ512, eight words (R135). -/
  | read512
  /-- NEXT, a signed 32-bit integer (R158). -/
  | next
  /-- NEXTDOUBLE, one binary64 (R159). -/
  | nextdouble
  /-- NEXTFLOAT, one binary32 (R160). -/
  | nextfloat
  /-- NEXTDOUBLES256, four binary64 (R161). -/
  | nextdoubles256
  /-- NEXTDOUBLES512, eight binary64 (R162). -/
  | nextdoubles512
  /-- CVTD, double-precision extraction of a host word (R163). -/
  | cvtd (v : Quad)
  /-- CVTF, single-precision extraction of a host word (R164). -/
  | cvtf (v : Quad)
  /-- RDREG, read register number `r` (R180). -/
  | rdreg (r : BitVec 8)
  /-- WRREG, write `v` to register number `r` (R181). -/
  | wrreg (r : BitVec 8) (v : Quad)
  deriving DecidableEq, Repr

/-- A command as the host presents it: the command word `W` and the payload `PL` (R70). -/
structure Command where
  word : BitVec 32
  payload : Vec
  deriving DecidableEq, Repr

end Sys2Proof
end

