-- ==== Sys2Proof/WellFormed.lean ====
section
/-! DEFINITION. The legality of a decoded command's operands (30_encoding.md R76). What R76 says of RSV, of OPC and of
ARG in format Z is checked by the decoder, since no `Instr` can hold such a word. -/

namespace Sys2Proof

/-- The three sizes ENSURE accepts (R132). -/
def ensureSizeOk (n : BitVec 8) : Bool := n == 8#8 || n == 32#8 || n == 64#8

/-- The five register numbers RDREG accepts (R180). -/
def rdregNumberOk (r : BitVec 8) : Bool := decide (r.toNat ≤ 4)

/-- The one register number WRREG accepts: CFG (R181). -/
def wrregNumberOk (r : BitVec 8) : Bool := r == 2#8

/-- The reserved bits 63:1 of CFG must be written as zero (R181). -/
def wrregValueOk (v : Quad) : Bool := v.extractLsb' 1 63 == 0#63

/-- The command is legal by R76. INIT with a length other than 32 is legal: it is the invalid-argument condition (R91). -/
def Instr.wf : Instr → Bool
  | .capq => true
  | .init _ _ => true
  | .dispose => true
  | .ensure n => ensureSizeOk n
  | .nextraw => true
  | .read256 => true
  | .read512 => true
  | .next => true
  | .nextdouble => true
  | .nextfloat => true
  | .nextdoubles256 => true
  | .nextdoubles512 => true
  | .cvtd _ => true
  | .cvtf _ => true
  | .rdreg r => rdregNumberOk r
  | .wrreg r v => wrregNumberOk r && wrregValueOk v

end Sys2Proof
end

