-- ==== Sys2Proof/Decode.lean ====
section
/-! DEFINITION. The decoder, total on every command word and payload, and the encoder written from the same table
(30_encoding.md R71 to R76). -/

namespace Sys2Proof

/-- Why a command word selects no operation (R76). -/
inductive DecodeError where
  /-- RSV (bits 31:16) is not zero. -/
  | reservedBits
  /-- OPC is not one of the sixteen codes. -/
  | unassignedOpcode
  /-- The format is Z and ARG is not zero. -/
  | argumentNotZero
  deriving DecidableEq, Repr

/-- OPC, bits 7:0 (R71). -/
def Command.opc (c : Command) : BitVec 8 := c.word.extractLsb' 0 8

/-- ARG, bits 15:8 (R71). -/
def Command.arg (c : Command) : BitVec 8 := c.word.extractLsb' 8 8

/-- RSV, bits 31:16 (R71). -/
def Command.rsv (c : Command) : BitVec 16 := c.word.extractLsb' 16 16

/-- The 64-bit payload operand, `PL[63:0]` (R73). -/
def Command.operand (c : Command) : Quad := c.payload.extractLsb' 0 64

/-- Format Z: ARG must be 0 (R72). -/
def formatZ (c : Command) (i : Instr) : Except DecodeError Instr :=
  if c.arg = 0#8 then .ok i else .error .argumentNotZero

/-- The command a word and payload select (R75), or why there is none (R76). The operands of a format A command are
taken as they stand (R72); whether they are legal is `Instr.wf` (log entry 13). -/
def decode (c : Command) : Except DecodeError Instr :=
  if c.rsv = 0#16 then
    match c.opc with
    | 0x01#8 => formatZ c .capq
    | 0x02#8 => .ok (.init c.arg c.payload)
    | 0x03#8 => formatZ c .dispose
    | 0x10#8 => .ok (.ensure c.arg)
    | 0x11#8 => formatZ c .nextraw
    | 0x12#8 => formatZ c .read256
    | 0x13#8 => formatZ c .read512
    | 0x20#8 => formatZ c .next
    | 0x21#8 => formatZ c .nextdouble
    | 0x22#8 => formatZ c .nextfloat
    | 0x23#8 => formatZ c .nextdoubles256
    | 0x24#8 => formatZ c .nextdoubles512
    | 0x28#8 => formatZ c (.cvtd c.operand)
    | 0x29#8 => formatZ c (.cvtf c.operand)
    | 0x30#8 => .ok (.rdreg c.arg)
    | 0x31#8 => .ok (.wrreg c.arg c.operand)
    | _ => .error .unassignedOpcode
  else .error .reservedBits

/-- The operation code of a command (R75). -/
def Instr.opcode : Instr → BitVec 8
  | .capq => 0x01
  | .init _ _ => 0x02
  | .dispose => 0x03
  | .ensure _ => 0x10
  | .nextraw => 0x11
  | .read256 => 0x12
  | .read512 => 0x13
  | .next => 0x20
  | .nextdouble => 0x21
  | .nextfloat => 0x22
  | .nextdoubles256 => 0x23
  | .nextdoubles512 => 0x24
  | .cvtd _ => 0x28
  | .cvtf _ => 0x29
  | .rdreg _ => 0x30
  | .wrreg _ _ => 0x31

/-- ARG of a command: its argument in format A, zero in format Z (R72). -/
def Instr.argField : Instr → BitVec 8
  | .init len _ => len
  | .ensure n => n
  | .rdreg r => r
  | .wrreg r _ => r
  | .capq => 0
  | .dispose => 0
  | .nextraw => 0
  | .read256 => 0
  | .read512 => 0
  | .next => 0
  | .nextdouble => 0
  | .nextfloat => 0
  | .nextdoubles256 => 0
  | .nextdoubles512 => 0
  | .cvtd _ => 0
  | .cvtf _ => 0

/-- The payload of a command (R73); the bits the command does not use are sent as zero. -/
def Instr.payloadField : Instr → Vec
  | .init _ seed => seed
  | .cvtd v => v.setWidth 256
  | .cvtf v => v.setWidth 256
  | .wrreg _ v => v.setWidth 256
  | .capq => 0
  | .dispose => 0
  | .ensure _ => 0
  | .nextraw => 0
  | .read256 => 0
  | .read512 => 0
  | .next => 0
  | .nextdouble => 0
  | .nextfloat => 0
  | .nextdoubles256 => 0
  | .nextdoubles512 => 0
  | .rdreg _ => 0

/-- The command word and payload of a command: RSV = 0, then ARG, then OPC (R71). -/
def encode (i : Instr) : Command :=
  { word := 0#16 ++ i.argField ++ i.opcode, payload := i.payloadField }

/-- The command that an instruction of `nbits` bits stands for: the command word in bits 31:0 and the payload in bits
287:32 (log entry 14). Bits above `nbits` are zero, and there are none above bit 287. -/
def commandOfBits (nbits w : Nat) : Command :=
  let bits := if 288 ≤ nbits then w else w % 2 ^ nbits
  { word := BitVec.ofNat 32 bits, payload := BitVec.ofNat 256 (bits / 2 ^ 32) }

/-- The host's view of the decoder: the instruction read from the bits `w` of a row of the opcode table. -/
def decodeTableWord (nbits w : Nat) : Option Instr :=
  match decode (commandOfBits nbits w) with
  | .ok i => some i
  | .error _ => none

end Sys2Proof
end

