-- ==== Sys2Proof/Config.lean ====
section
/-! DEFINITION. What an instance of the engine fixes (00_scope.md R6, the parameters marked OPEN and HAS_V256), and the
free values of the model (what the spec leaves unspecified while the engine goes on). -/

namespace Sys2Proof

/-- The parameters of one engine instance (00_scope.md R6, R12). They are constants of the instance: no step changes
them. CAPACITY is held as its logarithm, since it is a power of two (D2). -/
structure Config where
  /-- log2 of CAPACITY (10_state.md R30: the CAPLOG2 field, 7 to 63). -/
  capLog2 : Nat
  /-- HAS_V256: the 256-bit datapath exists (D3). -/
  hasV256 : Bool
  /-- HAS_V512: the 512-bit read and extraction paths exist (D3). -/
  hasV512 : Bool
  /-- PHI[0..15], the key schedule (10_state.md R33). -/
  phi : Vector Quad 16
  deriving DecidableEq, Repr

/-- CAPACITY, the size of the output buffer in bytes. -/
def Config.capacity (c : Config) : Nat := 2 ^ c.capLog2

/-- The spec's bound on CAPACITY: a power of two, at least one chunk (R6), whose logarithm is 7 to 63 (R30). -/
def Config.wf (c : Config) : Bool := decide (7 ≤ c.capLog2) && decide (c.capLog2 ≤ 63)

/-- PRESUMED (log entry 3): the sixteen constants the spec lists as general knowledge (10_state.md R33): the first 1024
bits of the fractional part of the golden ratio. -/
def Config.goldenPhi : Vector Quad 16 :=
  #v[0x9E3779B97F4A7C15, 0xF39CC0605CEDC834, 0x1082276BF3A27251, 0xF86C6A11D0C18E95,
     0x2767F0B153D27B7F, 0x0347045B5BF1827F, 0x01886F0928403002, 0xC1D64BA40F335E36,
     0xF06AD7AE9717877E, 0x85839D6EFFBD7DC6, 0x64D325D1C5371682, 0xCADD0CCCFDFFBBE1,
     0x626E33B8D04B4331, 0xBBF73C790D94F79D, 0x471C4AB3ED3D82A5, 0xFEC507705E4AE6E5]

/-- The instance that `State.reset` describes: the default CAPACITY 2^17 and HAS_V256 = 1 (R6), HAS_V512 = 1
(DESIGN CHOICE, log entry 2) and the spec's listed PHI (PRESUMED, log entry 3). -/
def Config.default : Config :=
  { capLog2 := 17, hasV256 := true, hasV512 := true, phi := Config.goldenPhi }

/-- FREE VALUE (log entry 6): what a vector register holds after DISPOSE has made it unspecified (40_init_lifecycle.md
R94). No body, so nothing can be proved of it; the argument is a counter of State, so each use is a fresh value. -/
opaque Config.freeVec : Nat → Vec

end Sys2Proof
end

