-- ==== Sys2Proof/Machine/State.lean ====
section
/-! DEFINITION. The state of the engine (10_state.md R20), of its response port (30_encoding.md R70) and of the host that
drives it (00_scope.md R11), as plain data; the reasons a step can stop; and the state after reset (R39). -/

namespace Sys2Proof.Machine

/-- The status of a response (60_exceptions.md R191). Codes 5 to 14 are never produced. -/
inductive Status where
  | ok
  | invalidArgument
  | unsupportedOperation
  | resourceError
  | illegalCommand
  | fault
  deriving DecidableEq, Repr

/-- A response: a status and a 512-bit data value (30_encoding.md R70). -/
structure Response where
  status : Status
  data : Data
  deriving DecidableEq, Repr

/-- The causes of a fault (60_exceptions.md R196). -/
inductive Cause where
  /-- A draw or ENSURE with no generator allocated. -/
  | useNotAllocated
  /-- A DISPOSE with no generator allocated. -/
  | disposeNotAllocated
  deriving DecidableEq, Repr

/-- The two extraction forms that `CFG.EXMODE` selects (43_extraction.md R153). -/
inductive ExMode where
  /-- EXMODE = 0. -/
  | shift
  /-- EXMODE = 1. -/
  | mask
  deriving DecidableEq, Repr

/-- Four vectors: the state vectors or the output vectors (10_state.md R21, R22). -/
structure Bank where
  v0 : Vec
  v1 : Vec
  v2 : Vec
  v3 : Vec
  deriving DecidableEq, Repr

/-- The nine vector registers `S`, `O`, `CTR`: the source's GeneratorState (10_state.md R20). -/
structure Gen where
  s : Bank
  o : Bank
  ctr : Vec
  deriving DecidableEq, Repr

/-- The output buffer as a list of (offset, byte) pairs with rising offsets (`Memory.wf`). An offset that is not listed
has no value: nothing has written it since reset or DISPOSE (log entry 5). -/
abbrev Memory := List Host.Cell

/-- What the host can do to the engine (00_scope.md R11, 30_encoding.md R70, 70_reset_and_hazards.md R220). -/
inductive HostAction where
  /-- Present a command; the engine executes it and gives its response in the same step (R11). -/
  | issue (c : Command)
  /-- Take the response that the engine has given. -/
  | take
  /-- Assert the reset input. -/
  | reset
  deriving DecidableEq, Repr

/-- The whole state. The first ten fields are the spec's (R20, with the instance's parameters of R6), `rsp` is the
response port (R70), and `host`, `received`, `freeIdx` are the model's own (log entries 6 and 7). -/
structure State where
  /-- The parameters of the instance (R6); no step changes them (log entry 1). -/
  inst : Config
  /-- `S[0..3]`, `O[0..3]`, `CTR` (R21, R22, R23). -/
  gen : Gen
  /-- `BUF` (R26). -/
  buf : Memory
  /-- `CURSOR` (R27). -/
  cursor : Nat
  /-- `ALLOC` (R28). -/
  alloc : Bool
  /-- `FAULT` (R29). -/
  fault : Bool
  /-- `FCAUSE` (R29). -/
  fcause : BitVec 8
  /-- `CFG.EXMODE` (R30). -/
  exmode : ExMode
  /-- `REFILLS` (R32). -/
  refills : BitVec 64
  /-- The response given and not yet taken (R70, R224). -/
  rsp : Option Response
  /-- What the host will still do, in order. -/
  host : List HostAction
  /-- The responses the host has taken since reset, oldest first. -/
  received : List Response
  /-- The counter that makes each free value a fresh one. -/
  freeIdx : Nat
  deriving DecidableEq, Repr

/-- Why a step stops. None of these is a condition of the spec's section 60: those are next states. -/
inductive Fault where
  /-- Raised by `step` when the host presents a command while a response is outstanding: the spec gives this no
  transition (70_reset_and_hazards.md R224, U12 "stuck"). Safe: the model stops. -/
  | secondCommandOutstanding
  /-- Raised by `step` when the host takes a response and none is outstanding: the spec does not say what happens
  (log entry 9). Safe: the model stops. -/
  | noResponseToTake
  /-- Raised by the draws when they would read a buffer byte that nothing has written since reset or DISPOSE. The spec
  says no rule ever does (10_state.md R39); only unreachable states raise it (log entry 5). Safe: the model stops. -/
  | unwrittenByte
  /-- Raised by the draws when they would read outside offsets 0 to CAPACITY-1, where no byte exists (20_memory.md R50,
  R55); only unreachable states raise it (log entry 12). Safe: the model stops. -/
  | outsideBuffer
  deriving DecidableEq, Repr

/-- Why an instruction has no meaning in the model. -/
inductive Refusal where
  /-- Raised by an arm of `exec` whose instruction has no meaning yet (none in this model). Safe: the model stops. -/
  | notModelled (mnemonic : String)
  deriving DecidableEq, Repr

/-- What one step can answer. -/
abbrev Outcome := Host.Outcome State Fault Refusal

/-- CAPACITY of the instance. -/
def State.capacity (s : State) : Nat := s.inst.capacity

/-- DESIGN CHOICE (log entry 4): the value of the nine vectors at reset, which R39 leaves unspecified. -/
def Gen.zero : Gen := { s := ⟨0, 0, 0, 0⟩, o := ⟨0, 0, 0, 0⟩, ctr := 0 }

/-- The state of the instance `c` after reset (10_state.md R39, 70_reset_and_hazards.md R220), with a host that does
nothing. -/
def State.resetOf (c : Config) : State :=
  { inst := c, gen := Gen.zero, buf := [], cursor := c.capacity, alloc := false, fault := false, fcause := 0,
    exmode := .shift, refills := 0, rsp := none, host := [], received := [], freeIdx := 0 }

/-- The state right after reset of the default instance. -/
def State.reset : State := State.resetOf Config.default

end Sys2Proof.Machine
end

