-- ==== Sys2Proof/Machine/Constants.lean ====
section
/-! DEFINITION. The constants that are the same in every instance (10_state.md R33, 00_scope.md R6). -/

namespace Sys2Proof.Machine

/-- CHUNK: the bytes one round emits (R6). -/
def chunkBytes : Nat := 128

/-- WARMUP: the warm-up rounds of INIT (R6, R93). -/
def warmUpRounds : Nat := 13

/-- The seed length INIT accepts, in bytes (R6, R91). -/
def seedBytes : BitVec 8 := 32#8

/-- `INC.q[0..3] = (7, 5, 3, 1)` (R33). -/
def incQuads : Vector Quad 4 := #v[7, 5, 3, 1]

/-- SHIFT[0..3] = (1, 3, 1, 3) (R33). -/
def shiftCounts : Vector Nat 4 := #v[1, 3, 1, 3]

/-- The permutation of the even vectors (R33). -/
def permEven : Vector (Fin 8) 8 := #v[5, 6, 7, 0, 1, 2, 3, 4]

/-- The permutation of the odd vectors (R33). -/
def permOdd : Vector (Fin 8) 8 := #v[3, 4, 5, 6, 7, 0, 1, 2]

end Sys2Proof.Machine
end

