-- ==== Sys2Proof/Machine/Operands.lean ====
section
/-! DEFINITION. Every operand form of the commands: the element views of a vector (00_scope.md R7), the seed words of the
INIT payload (40_init_lifecycle.md R96), the sizes of ENSURE and of the draws, the byte images of a vector
(20_memory.md R51), and the legality of a command's operands (30_encoding.md R76). -/

namespace Sys2Proof.Machine

/-- The quad view: `V.q[k] = V[64k+63:64k]` (R7); also element k of a vector result (R73). -/
def quad {w : Nat} (v : BitVec w) (k : Nat) : Quad := v.extractLsb' (64 * k) 64

/-- The dword view: `V.d[j] = V[32j+31:32j]` (R7). -/
def dword (v : Vec) (j : Nat) : Dword := v.extractLsb' (32 * j) 32

/-- The vector whose quads are `q[0], q[1], q[2], q[3]` (R7). -/
def ofQuads (q0 q1 q2 q3 : Quad) : Vec := q3 ++ q2 ++ q1 ++ q0

/-- The vector whose dwords are `d[0], ..., d[7]` (R7). -/
def ofDwords (d0 d1 d2 d3 d4 d5 d6 d7 : Dword) : Vec :=
  d7 ++ d6 ++ d5 ++ d4 ++ d3 ++ d2 ++ d1 ++ d0

/-- `INC` as a vector (R33). -/
def incVec : Vec := ofQuads incQuads[0] incQuads[1] incQuads[2] incQuads[3]

/-- `SeedWords(PL)`: seed word `j` is `PL[64j+63:64j]` (R96). -/
def seedWord (pl : Vec) (j : Nat) : Quad := quad pl j

/-- The little-endian image of a value: byte `i` is `v[8i+7:8i]` (R51), for the `n` lowest bytes. -/
def bytesOf {w : Nat} (v : BitVec w) (n : Nat) : List Byte :=
  (List.range n).map fun i => v.extractLsb' (8 * i) 8

/-- `zext_512`: the data of a response from a narrower result (R8, R73). -/
def zext512 {w : Nat} (v : BitVec w) : Data := v.setWidth 512

/-- `CFG.EXMODE` as the bit it is (R30). -/
def exModeBit (m : ExMode) : BitVec 1 :=
  match m with
  | .shift => 0#1
  | .mask => 1#1

/-- The form that the bit `PL[0]` written to CFG selects (R153, R181). -/
def exModeOfBit (b : Bool) : ExMode := if b then .mask else .shift

/-- The value of the register CAP: bit 0 HAS_V256, bit 1 HAS_V512, bits 15:8 log2 CAPACITY, the others zero (R30). -/
def capValue (c : Config) : Quad :=
  0#48 ++ BitVec.ofNat 8 c.capLog2 ++ 0#6 ++ BitVec.ofBool c.hasV512 ++ BitVec.ofBool c.hasV256

/-- The command's operands are legal (R76). -/
def legal (i : Instr) : Bool := i.wf

end Sys2Proof.Machine
end

