-- ==== Sys2Proof/Machine/Lanes.lean ====
section
/-! DEFINITION. The vector arithmetic primitives (00_scope.md R9). All additions are modulo 2^64 per quad, all shifts
logical per quad (41_round_function.md R121). -/

namespace Sys2Proof.Machine

/-- `add64x4(A, B)`: four independent 64-bit additions (R9). -/
def add64x4 (a b : Vec) : Vec :=
  ofQuads (quad a 0 + quad b 0) (quad a 1 + quad b 1) (quad a 2 + quad b 2) (quad a 3 + quad b 3)

/-- `srl64x4(A, n)`: each quad shifted right, zeros in at its top (R9). -/
def srl64x4 (a : Vec) (n : Nat) : Vec :=
  ofQuads (quad a 0 >>> n) (quad a 1 >>> n) (quad a 2 >>> n) (quad a 3 >>> n)

/-- `xor256(A, B)` (R9). -/
def xor256 (a b : Vec) : Vec := a ^^^ b

/-- `permute32(A, P)`, a gather: element `j` of the result is element `P[j]` of the source (R9). -/
def permute32 (a : Vec) (p : Vector (Fin 8) 8) : Vec :=
  ofDwords (dword a p[0]) (dword a p[1]) (dword a p[2]) (dword a p[3])
    (dword a p[4]) (dword a p[5]) (dword a p[6]) (dword a p[7])

end Sys2Proof.Machine
end

