-- ==== Sys2Proof/Machine/Flags.lean ====
section
/-! DEFINITION. What a command leaves behind as its outcome. The engine has no flags and no condition codes
(10_state.md R35): the outcome of a command is the status of its response (60_exceptions.md R191), and of a fault the cause
code (R196). This file holds those codes; no other flag computation exists. -/

namespace Sys2Proof.Machine

/-- The 4-bit status code on the response port (R191). -/
def Status.code (st : Status) : BitVec 4 :=
  match st with
  | .ok => 0
  | .invalidArgument => 1
  | .unsupportedOperation => 2
  | .resourceError => 3
  | .illegalCommand => 4
  | .fault => 15

/-- The status is one of the reported conditions: non-zero and below 15 (R190). -/
def Status.isCondition (st : Status) : Bool :=
  match st with
  | .ok => false
  | .invalidArgument => true
  | .unsupportedOperation => true
  | .resourceError => true
  | .illegalCommand => true
  | .fault => false

/-- The 8-bit cause code that FCAUSE holds (R196). -/
def Cause.code (c : Cause) : BitVec 8 :=
  match c with
  | .useNotAllocated => 1
  | .disposeNotAllocated => 2

end Sys2Proof.Machine
end

