-- ==== Sys2Proof/Machine/Ops.lean ====
section
/-! DEFINITION. The named operations over the buffer memory and the registers, the response, the reported conditions,
taking a fault and leaving it by reset, and the prologue that every command shares (60_exceptions.md R198). -/

namespace Sys2Proof.Machine

/-! ## The buffer memory (20_memory.md R50 to R55) -/

/-- The canonical form: offsets strictly rising. An unlisted offset has no value, so no entry can equal what an unlisted
offset reads as. -/
def Memory.wf : Memory → Bool
  | [] => true
  | [_] => true
  | c :: d :: m => decide (c.1 < d.1) && Memory.wf (d :: m)

/-- The byte at an offset, if anything has written it. -/
def Memory.read : Memory → Nat → Option Byte
  | [], _ => none
  | (k, b) :: m, a => if k = a then some b else Memory.read m a

/-- The cells of a run of bytes that starts at an offset. -/
def cellsFrom : Nat → List Byte → Memory
  | _, [] => []
  | a, b :: bs => (a, b) :: cellsFrom (a + 1) bs

/-- Write a run of bytes at rising offsets from `a`; every other offset keeps its value. -/
def Memory.writeRun (m : Memory) (a : Nat) (bs : List Byte) : Memory :=
  m.filter (fun c => decide (c.1 < a)) ++ (cellsFrom a bs ++ m.filter (fun c => decide (a + bs.length ≤ c.1)))

/-- The little-endian value of the `n` bytes from offset `a`, if all of them have a value: bits `[8i+7:8i]` are the byte
at `a + i` (00_scope.md R8, 20_memory.md R51). -/
def Memory.readLE (m : Memory) (a : Nat) : (n : Nat) → Option (BitVec (8 * n))
  | 0 => some 0#0
  | n + 1 =>
    match m.read a, Memory.readLE m (a + 1) n with
    | some b, some hi => some (hi ++ b)
    | _, _ => none

/-- `MemWrite(addr, n, v)` (R8). -/
def memWrite {w : Nat} (addr n : Nat) (v : BitVec w) (s : State) : State :=
  { s with buf := s.buf.writeRun addr (bytesOf v n) }

/-- `MemRead(addr, n)` (R8). The read stops outside offsets 0 to CAPACITY-1 and at a byte without a value; in reachable
states neither happens (R39, R55). -/
def memRead (addr n : Nat) (s : State) : Except Fault (BitVec (8 * n)) :=
  if s.capacity < addr + n then .error .outsideBuffer
  else match s.buf.readLE addr n with
    | some v => .ok v
    | none => .error .unwrittenByte

/-! ## Responses, conditions, faults (60_exceptions.md) -/

/-- `respond(status, data)`: the response stands on the port until the host takes it (R8, R70). -/
def respond (st : Status) (d : Data) (s : State) : State := { s with rsp := some ⟨st, d⟩ }

/-- `raise <Condition>`: the status with DATA = 0, and no other change of state (R190, R199). -/
def raise (st : Status) (s : State) : Outcome := .next (respond st 0 s)

/-- The fault response: status FAULT with `DATA = zext_512(FCAUSE)` (R73, R196). -/
def respondFault (s : State) : State := respond .fault (zext512 s.fcause) s

/-- `fault(cause)`: enter the FAULTED state with the first cause kept, and answer with it (R196, R197, R199). This is the
engine's whole exception entry: it has no handler, no vector and no saved state (R199). -/
def takeFault (c : Cause) (s : State) : Outcome :=
  .next (respondFault (if s.fault then s else { s with fault := true, fcause := c.code }))

/-- The reset input: every piece of the engine's state to its reset value (70_reset_and_hazards.md R220), the one way out
of the FAULTED state (R200). The instance, the host's remaining actions and the free-value counter are not the engine's
and stay; a response not yet taken is dropped and a new run starts (log entry 11). -/
def hardwareReset (s : State) : State :=
  { State.resetOf s.inst with host := s.host, freeIdx := s.freeIdx }

/-- Checks 1 and 2 of the prologue of every command (R198): the FAULTED state answers first, then the legality of the
command; after them comes what is special to the command. -/
def prologue (lawful : Bool) (s : State) (body : State → Outcome) : Outcome :=
  if s.fault then .next (respondFault s)
  else if lawful then body s
  else raise .illegalCommand s

/-- Check 3 of the prologue for the 512-bit commands (R198, R193). -/
def needsV512 (s : State) (body : State → Outcome) : Outcome :=
  if s.inst.hasV512 then body s else raise .unsupportedOperation s

/-- Check 6 of the prologue for the commands that touch the stream (R198, R196). -/
def needsAlloc (s : State) (body : State → Outcome) : Outcome :=
  if s.alloc then body s else takeFault .useNotAllocated s

/-! ## Control and status registers (10_state.md R30, 44_system.md R180, R181) -/

/-- The value RDREG returns for a register number; none for the reserved numbers 5 to 255. -/
def regRead (r : BitVec 8) (s : State) : Option Quad :=
  match r.toNat with
  | 0 => some (capValue s.inst)
  | 1 => some ((BitVec.ofBool s.alloc).setWidth 64)
  | 2 => some ((exModeBit s.exmode).setWidth 64)
  | 3 => some (BitVec.ofNat 64 s.cursor)
  | 4 => some s.refills
  | _ => none

/-- `CFG.EXMODE <- PL[0]` (R181). -/
def writeCfg (v : Quad) (s : State) : State := { s with exmode := exModeOfBit (v.getLsbD 0) }

end Sys2Proof.Machine
end

