-- ==== Sys2Proof/Machine/Round.lean ====
section
/-! DEFINITION. The round function (41_round_function.md R110 to R118), the seed load and the warm-up of INIT
(40_init_lifecycle.md R92, R93), and the stream the rounds produce (R124). -/

namespace Sys2Proof.Machine

/-- Steps 2 to 6 of a round: new state vectors, outputs and counter from the old state vectors and counter, in the
normative order of R118. -/
def roundFn (g : Gen) : Gen :=
  let a0 := g.s.v0
  let a1 := add64x4 g.s.v1 g.ctr
  let a2 := g.s.v2
  let a3 := add64x4 g.s.v3 g.ctr
  let u0 := srl64x4 a0 shiftCounts[0]
  let u1 := srl64x4 a1 shiftCounts[1]
  let u2 := srl64x4 a2 shiftCounts[2]
  let u3 := srl64x4 a3 shiftCounts[3]
  let t0 := permute32 a0 permEven
  let t1 := permute32 a1 permOdd
  let t2 := permute32 a2 permEven
  let t3 := permute32 a3 permOdd
  let s0 := add64x4 t0 u0
  let s1 := add64x4 t1 u1
  let s2 := add64x4 t2 u2
  let s3 := add64x4 t3 u3
  { s := ⟨s0, s1, s2, s3⟩
    o := ⟨xor256 u0 t1, xor256 u2 t3, xor256 s0 s3, xor256 s2 s1⟩
    ctr := add64x4 g.ctr incVec }

/-- Step 1 of a round at offset `dst` of the buffer: the four output vectors in index order (R111, 20_memory.md R52). -/
def emitAt (dst : Nat) (s : State) : State :=
  memWrite (dst + 96) 32 s.gen.o.v3 (memWrite (dst + 64) 32 s.gen.o.v2
    (memWrite (dst + 32) 32 s.gen.o.v1 (memWrite dst 32 s.gen.o.v0 s)))

/-- `ROUND(dst)`, with `none` for the sink (R110, R118). -/
def runRound (dst : Option Nat) (s : State) : State :=
  match dst with
  | some a => { emitAt a s with gen := roundFn s.gen }
  | none => { s with gen := roundFn s.gen }

/-- The 128 bytes of one chunk: the image of the four output vectors (R111, 20_memory.md R51, R52). -/
def chunkOf (o : Bank) : List Byte :=
  bytesOf o.v0 32 ++ (bytesOf o.v1 32 ++ (bytesOf o.v2 32 ++ bytesOf o.v3 32))

/-- The bytes that `n` rounds from `g` emit, one chunk after another (R124). -/
def streamBytes : Nat → Gen → List Byte
  | 0, _ => []
  | n + 1, g => chunkOf g.o ++ streamBytes n (roundFn g)

/-- `SeedLoad(s)` (R92): the constants PHI, with the seed words in the source's pairing. -/
def seedLoad (phi : Vector Quad 16) (s : Nat → Quad) : Gen :=
  { s := ⟨ofQuads (phi[0] ^^^ s 0) phi[1] (phi[2] ^^^ s 1) phi[3],
          ofQuads (phi[4] ^^^ s 2) phi[5] (phi[6] ^^^ s 3) phi[7],
          ofQuads (phi[8] ^^^ s 2) phi[9] (phi[10] ^^^ s 3) phi[11],
          ofQuads (phi[12] ^^^ s 0) phi[13] (phi[14] ^^^ s 1) phi[15]⟩
    o := ⟨0, 0, 0, 0⟩
    ctr := 0 }

/-- The warm-up copy: the output vectors into the state vectors in reverse order (R93). -/
def reverseCopy (g : Gen) : Gen := { g with s := ⟨g.o.v3, g.o.v2, g.o.v1, g.o.v0⟩ }

/-- One repetition of the warm-up: a round to the sink, then the copy (R93). -/
def warmUpStep (g : Gen) : Gen := reverseCopy (roundFn g)

/-- `WarmUp()` (R93). -/
def warmUp (g : Gen) : Gen := iter warmUpStep warmUpRounds g

end Sys2Proof.Machine
end

