-- ==== Sys2Proof/Machine/Buffer.lean ====
section
/-! DEFINITION. The buffer refill and read protocol (42_buffer_read.md): REFILL, ReadNext, ENSURE, NEXTRAW, READ256,
READ512. -/

namespace Sys2Proof.Machine

/-- The rounds of one refill: CAPACITY / 128 (R130). -/
def refillRounds (s : State) : Nat := s.capacity / chunkBytes

/-- `REFILL()` (R130). The loop `for c: ROUND(128 * c)` is written as the run of bytes its rounds emit, from offset 0
(log entry 15; `Obligations.RefillIsTheLoopOfRounds` states that it is that loop). -/
def refill (s : State) : State :=
  { s with
    buf := s.buf.writeRun 0 (streamBytes (refillRounds s) s.gen)
    gen := iter roundFn (refillRounds s) s.gen
    cursor := 0
    refills := s.refills + 1 }

/-- The test and refill that ReadNext and ENSURE share: refill when fewer than `n` bytes are left (R131, R132). -/
def ensureRoom (n : Nat) (s : State) : State :=
  if s.capacity < s.cursor + n then refill s else s

/-- `ReadNext(size)`: the value and the state after it (R131). -/
def readNext (n : Nat) (s : State) : Except Fault (BitVec (8 * n) × State) :=
  match memRead (ensureRoom n s).cursor n (ensureRoom n s) with
  | .ok v => .ok (v, { ensureRoom n s with cursor := (ensureRoom n s).cursor + n })
  | .error f => .error f

/-- A draw of `n` bytes: check 6 of the prologue, ReadNext, and the response made of the raw value (R133 to R135, R158
to R162). -/
def draw (n : Nat) (s : State) (result : BitVec (8 * n) → Data) : Outcome :=
  needsAlloc s fun s =>
    match readNext n s with
    | .ok (v, s') => .next (respond .ok (result v) s')
    | .error f => .fault f

/-- ENSURE (R132). -/
def execEnsure (n : BitVec 8) (s : State) : Outcome :=
  prologue (legal (.ensure n)) s fun s =>
    needsAlloc s fun s => .next (respond .ok 0 (ensureRoom n.toNat s))

/-- NEXTRAW (R133). -/
def execNextraw (s : State) : Outcome :=
  prologue (legal .nextraw) s fun s => draw 8 s zext512

/-- READ256 (R134). -/
def execRead256 (s : State) : Outcome :=
  prologue (legal .read256) s fun s => draw 32 s zext512

/-- READ512 (R135). -/
def execRead512 (s : State) : Outcome :=
  prologue (legal .read512) s fun s => needsV512 s fun s => draw 64 s zext512

end Sys2Proof.Machine
end

