-- ==== Sys2Proof/Machine/Extract.lean ====
section
/-! DEFINITION. The floating-point extraction unit (43_extraction.md): the functions MantD, MantF, EncD, EncF, ExtD, ExtF
and the commands NEXT, NEXTDOUBLE, NEXTFLOAT, NEXTDOUBLES256, NEXTDOUBLES512, CVTD, CVTF. The layouts of binary64 and
binary32 are the spec's own general knowledge (R154, R155; log entry 16). -/

namespace Sys2Proof.Machine

/-- `MantD(v)`: the top 53 bits in shift form, the low 53 bits in mask form (R150, R152, R153). -/
def mantD (m : ExMode) (v : Quad) : BitVec 53 :=
  match m with
  | .shift => v.extractLsb' 11 53
  | .mask => v.extractLsb' 0 53

/-- `MantF(v)`: the top 24 bits in shift form, the low 24 bits in mask form (R151, R152, R153). -/
def mantF (m : ExMode) (v : Quad) : BitVec 24 :=
  match m with
  | .shift => v.extractLsb' 40 24
  | .mask => v.extractLsb' 0 24

/-- `EncD(m)`: the binary64 pattern of `m * 2^-53` (R154), with `k` the index of the most significant 1 bit of `m`. -/
def encD (m : BitVec 53) : BitVec 64 :=
  if m = 0#53 then 0#64
  else
    let k := Nat.log2 m.toNat
    BitVec.ofNat 64 (970 + k) <<< 52 ||| BitVec.ofNat 64 ((m.toNat - 2 ^ k) * 2 ^ (52 - k))

/-- `EncF(m)`: the binary32 pattern of `m * 2^-24` (R155), with `k` the index of the most significant 1 bit of `m`. -/
def encF (m : BitVec 24) : BitVec 32 :=
  if m = 0#24 then 0#32
  else
    let k := Nat.log2 m.toNat
    BitVec.ofNat 32 (103 + k) <<< 23 ||| BitVec.ofNat 32 ((m.toNat - 2 ^ k) * 2 ^ (23 - k))

/-- `ExtD(v)` (R154). -/
def extD (m : ExMode) (v : Quad) : BitVec 64 := encD (mantD m v)

/-- `ExtF(v)` (R155). -/
def extF (m : ExMode) (v : Quad) : BitVec 32 := encF (mantF m v)

/-- The vector-double variant over four elements (R157, R161). -/
def extD256 (m : ExMode) (v : Vec) : Vec :=
  ofQuads (extD m (quad v 0)) (extD m (quad v 1)) (extD m (quad v 2)) (extD m (quad v 3))

/-- The vector-double variant over eight elements (R157, R162). -/
def extD512 (m : ExMode) (v : Data) : Data :=
  ofQuads (extD m (quad v 4)) (extD m (quad v 5)) (extD m (quad v 6)) (extD m (quad v 7)) ++
    ofQuads (extD m (quad v 0)) (extD m (quad v 1)) (extD m (quad v 2)) (extD m (quad v 3))

/-- The result of NEXT: `v[63:32]` (R158). -/
def topHalf (v : Quad) : Dword := v.extractLsb' 32 32

/-- NEXT (R158). -/
def execNext (s : State) : Outcome :=
  prologue (legal .next) s fun s => draw 8 s fun v => zext512 (topHalf v)

/-- NEXTDOUBLE (R159). -/
def execNextdouble (s : State) : Outcome :=
  prologue (legal .nextdouble) s fun s => draw 8 s fun v => zext512 (extD s.exmode v)

/-- NEXTFLOAT (R160). -/
def execNextfloat (s : State) : Outcome :=
  prologue (legal .nextfloat) s fun s => draw 8 s fun v => zext512 (extF s.exmode v)

/-- NEXTDOUBLES256 (R161). -/
def execNextdoubles256 (s : State) : Outcome :=
  prologue (legal .nextdoubles256) s fun s => draw 32 s fun v => zext512 (extD256 s.exmode v)

/-- NEXTDOUBLES512 (R162). -/
def execNextdoubles512 (s : State) : Outcome :=
  prologue (legal .nextdoubles512) s fun s => needsV512 s fun s => draw 64 s fun v => zext512 (extD512 s.exmode v)

/-- CVTD (R163). -/
def execCvtd (v : Quad) (s : State) : Outcome :=
  prologue (legal (.cvtd v)) s fun s => .next (respond .ok (zext512 (extD s.exmode v)) s)

/-- CVTF (R164). -/
def execCvtf (v : Quad) (s : State) : Outcome :=
  prologue (legal (.cvtf v)) s fun s => .next (respond .ok (zext512 (extF s.exmode v)) s)

end Sys2Proof.Machine
end

