-- ==== Sys2Proof/Machine/Lifecycle.lean ====
section
/-! DEFINITION. Capability, initialisation and disposal (40_init_lifecycle.md): CAPQ, INIT, DISPOSE. -/

namespace Sys2Proof.Machine

/-- CAPQ (R90). -/
def execCapq (s : State) : Outcome :=
  prologue (legal .capq) s fun s => .next (respond .ok (zext512 (capValue s.inst)) s)

/-- The state a successful INIT leaves, before its response (R91). -/
def construct (seed : Vec) (s : State) : State :=
  { s with gen := warmUp (seedLoad s.inst.phi (seedWord seed)), cursor := s.capacity, refills := 0, alloc := true }

/-- INIT (R91), with its conditions in the order of 60_exceptions.md R198. -/
def execInit (len : BitVec 8) (seed : Vec) (s : State) : Outcome :=
  prologue (legal (.init len seed)) s fun s =>
    if s.inst.hasV256 then
      if len = seedBytes then
        if s.alloc then raise .resourceError s
        else .next (respond .ok 0 (construct seed s))
      else raise .invalidArgument s
    else raise .unsupportedOperation s

/-- Nine fresh free values for the vector registers (R94, log entry 6). -/
def freeGen (n : Nat) : Gen :=
  { s := ⟨Config.freeVec n, Config.freeVec (n + 1), Config.freeVec (n + 2), Config.freeVec (n + 3)⟩
    o := ⟨Config.freeVec (n + 4), Config.freeVec (n + 5), Config.freeVec (n + 6), Config.freeVec (n + 7)⟩
    ctr := Config.freeVec (n + 8) }

/-- The state a successful DISPOSE leaves, before its response: ALLOC cleared; the vectors unspecified (free values) and
every buffer byte unspecified (no value); CURSOR, REFILLS and CFG kept (R94). -/
def release (s : State) : State :=
  { s with alloc := false, gen := freeGen s.freeIdx, buf := [], freeIdx := s.freeIdx + 9 }

/-- DISPOSE (R94). -/
def execDispose (s : State) : Outcome :=
  prologue (legal .dispose) s fun s =>
    if s.alloc then .next (respond .ok 0 (release s)) else takeFault .disposeNotAllocated s

end Sys2Proof.Machine
end

