-- ==== Sys2Proof/Machine/System.lean ====
section
/-! DEFINITION. Register access (44_system.md): RDREG, WRREG. -/

namespace Sys2Proof.Machine

/-- RDREG (R180). A number that names no register is an illegal command (R76), already answered by the prologue. -/
def execRdreg (r : BitVec 8) (s : State) : Outcome :=
  prologue (legal (.rdreg r)) s fun s =>
    match regRead r s with
    | some v => .next (respond .ok (zext512 v) s)
    | none => raise .illegalCommand s

/-- WRREG (R181). The only writable register is CFG; the prologue has refused every other number and every value with a
reserved bit set (R76). -/
def execWrreg (r : BitVec 8) (v : Quad) (s : State) : Outcome :=
  prologue (legal (.wrreg r v)) s fun s => .next (respond .ok 0 (writeCfg v s))

end Sys2Proof.Machine
end

