-- ==== Sys2Proof/Machine/Dispatch.lean ====
section
/-! DEFINITION. One arm per command: the meaning of each (30_encoding.md R75). -/

namespace Sys2Proof.Machine

/-- What the engine does with a decoded command. -/
def exec (i : Instr) (s : State) : Host.Outcome State Fault Refusal :=
  match i with
  | .capq => Sys2Proof.Machine.execCapq s
  | .init len seed => Sys2Proof.Machine.execInit len seed s
  | .dispose => Sys2Proof.Machine.execDispose s
  | .ensure n => Sys2Proof.Machine.execEnsure n s
  | .nextraw => Sys2Proof.Machine.execNextraw s
  | .read256 => Sys2Proof.Machine.execRead256 s
  | .read512 => Sys2Proof.Machine.execRead512 s
  | .next => Sys2Proof.Machine.execNext s
  | .nextdouble => Sys2Proof.Machine.execNextdouble s
  | .nextfloat => Sys2Proof.Machine.execNextfloat s
  | .nextdoubles256 => Sys2Proof.Machine.execNextdoubles256 s
  | .nextdoubles512 => Sys2Proof.Machine.execNextdoubles512 s
  | .cvtd v => Sys2Proof.Machine.execCvtd v s
  | .cvtf v => Sys2Proof.Machine.execCvtf v s
  | .rdreg r => Sys2Proof.Machine.execRdreg r s
  | .wrreg r v => Sys2Proof.Machine.execWrreg r v s

end Sys2Proof.Machine
end

