-- ==== Sys2Proof/Machine/Port.lean ====
section
/-! DEFINITION. The two ports of the engine as the host uses them (30_encoding.md R70, 70_reset_and_hazards.md R224):
presenting a command and the engine's whole answer to it, taking a response, and asserting reset. -/

namespace Sys2Proof.Machine

/-- The answer to a command word that selects no operation (R76): the prologue with an unlawful command, so the fault
response in the FAULTED state and IllegalCommand otherwise (R195, R198). -/
def answerIllegal (s : State) : Outcome := prologue false s fun s => .next s

/-- The engine's answer to a command (00_scope.md R12, 60_exceptions.md R198). -/
def transact (c : Command) (s : State) : Outcome :=
  match decode c with
  | .ok i => exec i s
  | .error _ => answerIllegal s

/-- The host presents a command. While a response is outstanding the spec gives this no transition (R224). -/
def hostIssue (c : Command) (s : State) : Outcome :=
  match s.rsp with
  | none => transact c s
  | some _ => .fault .secondCommandOutstanding

/-- The host takes the response `r` that stands on the port. -/
def tookResponse (r : Response) (s : State) : State := { s with rsp := none, received := s.received ++ [r] }

/-- The host takes the response; the spec does not say what happens when there is none (log entry 9). -/
def hostTake (s : State) : Outcome :=
  match s.rsp with
  | some r => .next (tookResponse r s)
  | none => .fault .noResponseToTake

/-- `s` with the command `c` as the host's next move. The host has taken any response outstanding in `s`, since it may
not present a command before (R224). -/
def presentNext (c : Command) (s : State) : State :=
  match s.rsp with
  | some r => { tookResponse r s with host := .issue c :: s.host }
  | none => { s with host := .issue c :: s.host }

end Sys2Proof.Machine
end

