-- ==== Sys2Proof/Machine/Step.lean ====
section
/-! DEFINITION. One step: the host's next move and the engine's whole answer to it (00_scope.md R11, R12). -/

namespace Sys2Proof.Machine

/-- One step. With no move left the engine is idle and holds its state (60_exceptions.md R204). -/
def step (s : State) : Host.Outcome State Fault Refusal :=
  match s.host with
  | [] => .next s
  | .issue c :: rest => hostIssue c { s with host := rest }
  | .take :: rest => hostTake { s with host := rest }
  | .reset :: rest => .next (hardwareReset { s with host := rest })

/-- The state in which the very next step runs the command of the bits `w` (log entry 7). -/
def State.withFetchWord (s : State) (nbits w : Nat) : State := presentNext (commandOfBits nbits w) s

end Sys2Proof.Machine
end

