-- ==== Sys2Proof/Safety.lean ====
section
/-! DEFINITION. What counts as a safe run (70_reset_and_hazards.md R231) and the words the claims are stated in: the
invariant of the state, the stream (41_round_function.md R124), repeated draws, the numbers that binary64 and binary32
patterns stand for (43_extraction.md R154, R155), and when two states agree on everything the spec specifies. -/

namespace Sys2Proof.Machine

/-! ## Runs (R231) -/

/-- Every response given since reset, oldest first. -/
def responsesOfRun (s : State) : List Response := s.received ++ s.rsp.toList

/-- The run has gone wrong: some response is FAULT (R231). -/
def goneWrong (s : State) : Bool := (responsesOfRun s).any fun r => decide (r.status = .fault)

/-- The run is clean at its end: no response was FAULT and every handle is disposed (R231, R223). -/
def cleanAtEnd (s : State) : Bool := !goneWrong s && !s.alloc

/-! ## The stream (R124, 20_memory.md R52) -/

/-- Word `i` of the stream that starts with the output vectors of `g`: quad `i mod 4` of output vector `(i / 4) mod 4`
of the state after `i / 16` rounds (R124, R52). -/
def streamWord (g : Gen) (i : Nat) : Quad :=
  let o := (iter roundFn (i / 16) g).o
  match i / 4 % 4 with
  | 0 => quad o.v0 (i % 4)
  | 1 => quad o.v1 (i % 4)
  | 2 => quad o.v2 (i % 4)
  | _ => quad o.v3 (i % 4)

/-- The buffer holds, in every one of its CAPACITY bytes, what the last `CAPACITY / 128` rounds emitted
(42_buffer_read.md R139). -/
def BufferIsWindow (s : State) : Prop :=
  ∃ g : Gen, s.gen = iter roundFn (refillRounds s) g ∧
    ∀ a, a < s.capacity → s.buf.read a = (streamBytes (refillRounds s) g)[a]?

/-! ## The invariant -/

/-- What holds in every state that a run reaches. -/
structure EngineInv (s : State) : Prop where
  /-- CAPACITY is one the spec allows (R6, R30). -/
  instance_ok : s.inst.wf = true
  /-- The buffer memory is in its canonical form. -/
  buffer_canonical : Memory.wf s.buf = true
  /-- Nothing is listed outside BUF (R50). -/
  buffer_in_range : ∀ c ∈ s.buf, c.1 < s.capacity
  /-- `0 <= cursor <= capacity` (R27). -/
  cursor_le : s.cursor ≤ s.capacity
  /-- CURSOR is a multiple of 8 (R27). -/
  cursor_aligned : s.cursor % 8 = 0
  /-- While unread bytes are left, the buffer is a window of the stream (R139). -/
  window : s.alloc = true → s.cursor < s.capacity → BufferIsWindow s
  /-- A faulted engine owns no handle: the lifecycle has three states (R95). -/
  faulted_free : s.fault = true → s.alloc = false
  /-- FCAUSE is 0 while FAULT is 0 (R29). -/
  cause_zero : s.fault = false → s.fcause = 0#8
  /-- FCAUSE is a cause code while FAULT is 1 (R196). -/
  cause_code : s.fault = true → s.fcause = 1#8 ∨ s.fcause = 2#8

/-! ## Draws -/

/-- The `n` bytes of the buffer from offset `a` are the little-endian image of `v` (20_memory.md R51). -/
def BytesAt {w : Nat} (s : State) (a n : Nat) (v : BitVec w) : Prop :=
  ∀ i, i < n → s.buf.read (a + i) = some (v.extractLsb' (8 * i) 8)

/-- The same command `n` times, the host taking each response: the data of the responses in order and the end state;
none as soon as one is not answered with status OK. -/
def repeatCommand (i : Instr) : Nat → State → Option (List Data × State)
  | 0, s => some ([], s)
  | n + 1, s =>
    match exec i s with
    | .next t =>
      match t.rsp with
      | some ⟨.ok, d⟩ =>
        match repeatCommand i n t with
        | some (ds, u) => some (d :: ds, u)
        | none => none
      | _ => none
    | _ => none

/-- The commands of a list one after another, the host taking each response: the data of the responses in order and the
end state; none as soon as one is not answered with status OK. -/
def runCommands : List Instr → State → Option (List Data × State)
  | [], s => some ([], s)
  | i :: is, s =>
    match exec i s with
    | .next t =>
      match t.rsp with
      | some ⟨.ok, d⟩ =>
        match runCommands is t with
        | some (ds, u) => some (d :: ds, u)
        | none => none
      | _ => none
    | _ => none

/-- The draws of 8 bytes (42_buffer_read.md R133, 43_extraction.md R158 to R160). -/
def scalarDraws : List Instr := [.nextraw, .next, .nextdouble, .nextfloat]

/-- The data that a draw of 8 bytes makes of the word `v` in the extraction form `m` (R133, R158, R159, R160); none for a
command that is no such draw. -/
def scalarResult (m : ExMode) (i : Instr) (v : Quad) : Option Data :=
  match i with
  | .nextraw => some (zext512 v)
  | .next => some (zext512 (topHalf v))
  | .nextdouble => some (zext512 (extD m v))
  | .nextfloat => some (zext512 (extF m v))
  | .read256 => none
  | .read512 => none
  | .nextdoubles256 => none
  | .nextdoubles512 => none
  | .ensure _ => none
  | .capq => none
  | .init _ _ => none
  | .dispose => none
  | .cvtd _ => none
  | .cvtf _ => none
  | .rdreg _ => none
  | .wrreg _ _ => none

/-- The commands that touch the stream (40_init_lifecycle.md R95). -/
def touchesStream (i : Instr) : Bool :=
  match i with
  | .ensure _ => true
  | .nextraw => true
  | .read256 => true
  | .read512 => true
  | .next => true
  | .nextdouble => true
  | .nextfloat => true
  | .nextdoubles256 => true
  | .nextdoubles512 => true
  | .capq => false
  | .init _ _ => false
  | .dispose => false
  | .cvtd _ => false
  | .cvtf _ => false
  | .rdreg _ => false
  | .wrreg _ _ => false

/-- The commands that write no state at all, whatever they answer (R90, R163, R164, R180). -/
def writesNothing (i : Instr) : Bool :=
  match i with
  | .capq => true
  | .cvtd _ => true
  | .cvtf _ => true
  | .rdreg _ => true
  | .init _ _ => false
  | .dispose => false
  | .ensure _ => false
  | .nextraw => false
  | .read256 => false
  | .read512 => false
  | .next => false
  | .nextdouble => false
  | .nextfloat => false
  | .nextdoubles256 => false
  | .nextdoubles512 => false
  | .wrreg _ _ => false

/-- How many bytes a command that touches the stream needs at the cursor (42_buffer_read.md R131, R132). -/
def bytesNeeded (i : Instr) : Nat :=
  match i with
  | .ensure n => n.toNat
  | .nextraw => 8
  | .read256 => 32
  | .read512 => 64
  | .next => 8
  | .nextdouble => 8
  | .nextfloat => 8
  | .nextdoubles256 => 32
  | .nextdoubles512 => 64
  | .capq => 0
  | .init _ _ => 0
  | .dispose => 0
  | .cvtd _ => 0
  | .cvtf _ => 0
  | .rdreg _ => 0
  | .wrreg _ _ => 0

/-! ## Illegal commands -/

/-- The codes of the format Z operations (30_encoding.md R75). -/
def formatZCodes : List (BitVec 8) := [0x01, 0x03, 0x11, 0x12, 0x13, 0x20, 0x21, 0x22, 0x23, 0x24, 0x28, 0x29]

/-- The codes of the format A operations: INIT, ENSURE, RDREG, WRREG (R75). -/
def formatACodes : List (BitVec 8) := [0x02, 0x10, 0x30, 0x31]

/-- R76, clause by clause, over OPC = bits 7:0, ARG = bits 15:8, RSV = bits 31:16 of the command word. -/
def IsIllegal (c : Command) : Prop :=
  c.word.extractLsb' 16 16 ≠ 0 ∨
  (c.word.extractLsb' 0 8 ∉ formatZCodes ∧ c.word.extractLsb' 0 8 ∉ formatACodes) ∨
  (c.word.extractLsb' 0 8 ∈ formatZCodes ∧ c.word.extractLsb' 8 8 ≠ 0) ∨
  (c.word.extractLsb' 0 8 = 0x10 ∧
    c.word.extractLsb' 8 8 ≠ 8 ∧ c.word.extractLsb' 8 8 ≠ 32 ∧ c.word.extractLsb' 8 8 ≠ 64) ∨
  (c.word.extractLsb' 0 8 = 0x30 ∧ 4 < (c.word.extractLsb' 8 8).toNat) ∨
  (c.word.extractLsb' 0 8 = 0x31 ∧ c.word.extractLsb' 8 8 ≠ 2) ∨
  (c.word.extractLsb' 0 8 = 0x31 ∧ c.word.extractLsb' 8 8 = 2 ∧ c.payload.extractLsb' 1 63 ≠ 0)

/-! ## The numbers that floating-point patterns stand for -/

/-- The real number of a pattern with `e` exponent bits' value `ex`, fraction `f` of `p` bits, bias `bias`. -/
def normalValue (p bias ex f : Nat) : ℚ := (1 + (f : ℚ) / 2 ^ p) * 2 ^ ((ex : ℤ) - (bias : ℤ))

/-- The number a binary64 pattern stands for, when it is zero or normal and not negative (R154); none otherwise. -/
def binary64Value (b : BitVec 64) : Option ℚ :=
  let ex := (b.extractLsb' 52 11).toNat
  let f := (b.extractLsb' 0 52).toNat
  if b.getLsbD 63 then none
  else if ex = 0 then (if f = 0 then some 0 else none)
  else if ex = 2047 then none
  else some (normalValue 52 1023 ex f)

/-- The number a binary32 pattern stands for, when it is zero or normal and not negative (R155); none otherwise. -/
def binary32Value (b : BitVec 32) : Option ℚ :=
  let ex := (b.extractLsb' 23 8).toNat
  let f := (b.extractLsb' 0 23).toNat
  if b.getLsbD 31 then none
  else if ex = 0 then (if f = 0 then some 0 else none)
  else if ex = 255 then none
  else some (normalValue 23 127 ex f)

/-! ## What the spec leaves unspecified -/

/-- The two states agree on everything the spec specifies: all fields but the vectors and the buffer; the vectors too
while a generator is allocated; the buffer too while it holds unread bytes (10_state.md R39, 40_init_lifecycle.md
R94). -/
structure AgreeOnSpecified (s t : State) : Prop where
  fields : { s with gen := t.gen, buf := t.buf } = t
  vectors : s.alloc = true → s.gen = t.gen
  buffer : s.alloc = true → s.cursor < s.capacity → s.buf = t.buf

end Sys2Proof.Machine
end

