-- ==== Sys2Proof/Certificates/Slice0/Obligations.lean ====
section
/-! DEFINITION. The statements for the provers, from the numbered rules of the spec. -/

open Sys2Proof Sys2Proof.Machine

/-! ## Encoding (30_encoding.md) -/

/-- R71, R72, R73, R75: no bit of an encoding is dropped, for every command and every operand. -/
def Obligations.DecodeInvertsEncode : Prop :=
  ∀ i : Instr, decode (encode i) = .ok i

/-- R71, R73: a decoded command determines its whole word and every payload bit that the command uses. -/
def Obligations.DecodedCommandDeterminesItsBits : Prop :=
  ∀ (c : Command) (i : Instr), decode c = .ok i →
    (encode i).word = c.word ∧
    (∀ len seed, i = .init len seed → seed = c.payload) ∧
    (∀ v, (i = .cvtd v ∨ i = .cvtf v ∨ ∃ r, i = .wrreg r v) → v = c.payload.extractLsb' 0 64)

/-- R76, R195: an illegal command raises IllegalCommand and changes nothing; a legal one is decoded to a well-formed
command, which is executed and never answered with IllegalCommand. -/
def Obligations.IllegalCommandsAreExactlyTheListedOnes : Prop :=
  Status.illegalCommand.code = 4 ∧ ∀ (c : Command) (s : State), s.fault = false →
    (IsIllegal c → transact c s = .next { s with rsp := some ⟨.illegalCommand, 0⟩ }) ∧
    (¬ IsIllegal c → ∃ i, decode c = .ok i ∧ i.wf = true ∧ transact c s = exec i s ∧
      ∀ t d, exec i s = .next t → t.rsp ≠ some ⟨.illegalCommand, d⟩)

/-- Sanity: words written out from R71 and R75 decode to the commands they stand for, one or more of every family. -/
def Obligations.SampleWordsDecode : Prop :=
  decode ⟨0x00000001#32, 0⟩ = .ok .capq ∧
  (∀ pl, decode ⟨0x00002002#32, pl⟩ = .ok (.init 32 pl)) ∧
  decode ⟨0x00000003#32, 0⟩ = .ok .dispose ∧
  decode ⟨0x00004010#32, 0⟩ = .ok (.ensure 64) ∧
  decode ⟨0x00000013#32, 0⟩ = .ok .read512 ∧
  decode ⟨0x00000023#32, 0⟩ = .ok .nextdoubles256 ∧
  decode ⟨0x00000028#32, 0x800#256⟩ = .ok (.cvtd 0x800) ∧
  decode ⟨0x00000330#32, 0⟩ = .ok (.rdreg 3) ∧
  decode ⟨0x00000231#32, 1⟩ = .ok (.wrreg 2 1)

/-- R76 at the command itself: an operand the command's rule does not list is answered with IllegalCommand and nothing
changes. -/
def Obligations.IllegalOperandsChangeNothing : Prop :=
  ∀ s : State, s.fault = false →
    (∀ n : BitVec 8, n ≠ 8 → n ≠ 32 → n ≠ 64 →
      exec (.ensure n) s = .next { s with rsp := some ⟨.illegalCommand, 0⟩ }) ∧
    (∀ r : BitVec 8, 4 < r.toNat → exec (.rdreg r) s = .next { s with rsp := some ⟨.illegalCommand, 0⟩ }) ∧
    (∀ (r : BitVec 8) (v : Quad), (r ≠ 2 ∨ v.extractLsb' 1 63 ≠ 0) →
      exec (.wrreg r v) s = .next { s with rsp := some ⟨.illegalCommand, 0⟩ })

/-! ## Steps and the ports (30_encoding.md R70, 70_reset_and_hazards.md) -/

/-- R11, R12: when the host presents a command and no response is outstanding, the step is `exec` of the decoded
command, at the state in which the host has made that move. -/
def Obligations.StepRunsTheDecodedCommand : Prop :=
  ∀ (s : State) (c : Command) (rest : List HostAction) (i : Instr),
    s.host = .issue c :: rest → s.rsp = none → decode c = .ok i → step s = exec i { s with host := rest }

/-- R195, R197, R198: the step of a command word that selects no operation. -/
def Obligations.StepAnswersAnUndecodableWord : Prop :=
  ∀ (s : State) (c : Command) (rest : List HostAction) (e : DecodeError),
    s.host = .issue c :: rest → s.rsp = none → decode c = .error e →
    (s.fault = false → step s = .next { s with host := rest, rsp := some ⟨.illegalCommand, 0⟩ }) ∧
    (s.fault = true → step s = .next { s with host := rest, rsp := some ⟨.fault, zext512 s.fcause⟩ })

/-- There is no transition for a second outstanding command (R224). That the missing transition is the stop
secondCommandOutstanding is the model's reading (log entry 8, DEDUCED). -/
def Obligations.SecondCommandHasNoTransition : Prop :=
  ∀ (s : State) (c : Command) (rest : List HostAction) (r : Response),
    s.host = .issue c :: rest → s.rsp = some r → step s = .fault .secondCommandOutstanding

/-- R70, R204: taking the response empties the port and changes nothing of the engine; between commands the engine holds
its state. That the responses taken are kept in a list is the model's choice (log entry 7). -/
def Obligations.HostTakesTheResponse : Prop :=
  ∀ s : State,
    (∀ rest r, s.host = .take :: rest → s.rsp = some r →
      step s = .next { s with host := rest, rsp := none, received := s.received ++ [r] }) ∧
    (s.host = [] → step s = .next s)

/-- R220: the reset input puts the specified state to its reset values, whatever the state was. -/
def Obligations.ResetInputResetsTheEngine : Prop :=
  ∀ (s : State) (rest : List HostAction), s.host = .reset :: rest →
    ∃ t, step s = .next t ∧ t.alloc = false ∧ t.fault = false ∧ t.fcause = 0 ∧ t.exmode = .shift ∧
      t.cursor = s.capacity ∧ t.refills = 0 ∧ t.inst = s.inst ∧ t.host = rest

/-- R39: the reset values the spec gives, for every instance, and the default instance of R6. The value of HAS_V512 in
the default instance is the model's choice (log entry 2). -/
def Obligations.ResetStateHoldsTheSpecsValues : Prop :=
  (∀ c : Config,
    (State.resetOf c).alloc = false ∧ (State.resetOf c).fault = false ∧ (State.resetOf c).fcause = 0 ∧
    (State.resetOf c).exmode = .shift ∧ (State.resetOf c).cursor = c.capacity ∧ (State.resetOf c).refills = 0 ∧
    (State.resetOf c).inst = c) ∧
  State.reset.capacity = 131072 ∧ State.reset.inst.hasV256 = true

/-! ## Outcomes, conditions and faults (60_exceptions.md) -/

/-- R197: the FAULTED state is sticky: every command, legal or not, is answered with the first cause and changes nothing,
and only reset clears FAULT. -/
def Obligations.FaultedStateIsSticky : Prop :=
  ∀ s : State, s.fault = true →
    (∀ c, transact c s = .next { s with rsp := some ⟨.fault, zext512 s.fcause⟩ }) ∧
    (∀ i, exec i s = .next { s with rsp := some ⟨.fault, zext512 s.fcause⟩ }) ∧
    (∀ t, step s = .next t → (t.fault = true ∧ t.fcause = s.fcause) ∨ ∃ rest, s.host = .reset :: rest)

/-- R190, R199: every command ends in exactly one of three outcomes, told apart by the status code: success (0); a
reported condition (1 to 14) with DATA = 0 and no other change of state; or a fault (15), which changes FAULT and FCAUSE
alone and carries FCAUSE. -/
def Obligations.EveryCommandEndsInOneOfThreeOutcomes : Prop :=
  ∀ (c : Command) (s t : State), transact c s = .next t →
    ∃ r, t.rsp = some r ∧
      (r.status.code = 0 ∨
       (0 < r.status.code.toNat ∧ r.status.code.toNat < 15 ∧ r.data = 0 ∧ t = { s with rsp := some r }) ∨
       (r.status.code = 15 ∧ r.data = zext512 t.fcause ∧ t.fault = true ∧
         t = { s with fault := true, fcause := t.fcause, rsp := some r }))

/-- R230, R190: in every state that meets the invariant each command is answered, and the host's side is untouched. -/
def Obligations.EveryCommandIsAnswered : Prop :=
  ∀ (s : State) (c : Command), EngineInv s →
    ∃ t r, transact c s = .next t ∧ t.rsp = some r ∧ t.host = s.host ∧ t.received = s.received ∧ t.inst = s.inst

/-- R196: misuse enters the FAULTED state with its cause, and nothing else changes; in the FAULTED state the first cause
stays. -/
def Obligations.MisuseEntersTheFaultedState : Prop :=
  ∀ (i : Instr) (s : State), s.alloc = false → i.wf = true →
    (s.inst.hasV512 = true ∨ (i ≠ .read512 ∧ i ≠ .nextdoubles512)) → (touchesStream i = true ∨ i = .dispose) →
    (s.fault = false → touchesStream i = true →
      exec i s = .next { s with fault := true, fcause := 1, rsp := some ⟨.fault, 1⟩ }) ∧
    (s.fault = false → i = .dispose →
      exec i s = .next { s with fault := true, fcause := 2, rsp := some ⟨.fault, 2⟩ }) ∧
    (s.fault = true → exec i s = .next { s with rsp := some ⟨.fault, zext512 s.fcause⟩ })

/-- R193, R198: the 512-bit commands on an instance without the 512-bit path, whether or not a generator is allocated. -/
def Obligations.MissingWidePathIsUnsupported : Prop :=
  ∀ s : State, s.fault = false → s.inst.hasV512 = false →
    exec .read512 s = .next { s with rsp := some ⟨.unsupportedOperation, 0⟩ } ∧
    exec .nextdoubles512 s = .next { s with rsp := some ⟨.unsupportedOperation, 0⟩ }

/-- R95, R28: ALLOC rises only by a successful INIT and falls only by a successful DISPOSE, and FAULT rises only from the
FREE state, by a command that touches the stream or by DISPOSE. -/
def Obligations.LifecycleHasThreeStates : Prop :=
  ∀ (i : Instr) (s t : State), exec i s = .next t →
    (s.alloc = false → t.alloc = true →
      s.fault = false ∧ t.fault = false ∧ t.rsp = some ⟨.ok, 0⟩ ∧ ∃ seed, i = .init 32 seed) ∧
    (s.alloc = true → t.alloc = false →
      s.fault = false ∧ t.fault = false ∧ t.rsp = some ⟨.ok, 0⟩ ∧ i = .dispose) ∧
    (s.fault = false → t.fault = true → s.alloc = false ∧ t.alloc = false ∧ (touchesStream i = true ∨ i = .dispose)) ∧
    (s.fault = true → t.fault = true)

/-- A response of the run is FAULT exactly when the FAULT bit is set (R231); it holds at reset and every step keeps it.
That a reset input drops a response not yet taken and restarts the list of responses, without which the reset of a faulted
engine would not keep it, is the model's choice (log entry 11, DESIGN CHOICE). -/
def Obligations.RunHasGoneWrongExactlyWhenFaulted : Prop :=
  (∀ c : Config, goneWrong (State.resetOf c) = (State.resetOf c).fault) ∧
  ∀ s t : State, goneWrong s = s.fault → step s = .next t → goneWrong t = t.fault

/-! ## The invariant -/

/-- The invariant holds after reset of every instance the spec allows. The part about the buffer's canonical form is the
model's (log entry 5). -/
def Obligations.ResetMeetsTheInvariant : Prop :=
  ∀ c : Config, c.wf = true → EngineInv (State.resetOf c)

/-- R27, R29, R50, R95, R139: every step from a state that meets the invariant gives a state that meets it. -/
def Obligations.StepKeepsTheInvariant : Prop :=
  ∀ s t : State, EngineInv s → step s = .next t → EngineInv t

/-- R20, R26, R28, R29, R30, R153: each register changes only by the commands that the spec lists as its writers, and the
parameters of the instance by none. -/
def Obligations.RegistersChangeOnlyByTheirWriters : Prop :=
  ∀ (i : Instr) (s t : State), exec i s = .next t →
    t.inst = s.inst ∧
    (t.exmode ≠ s.exmode → ∃ v, i = .wrreg 2 v) ∧
    (t.cursor ≠ s.cursor → touchesStream i = true ∨ ∃ seed, i = .init 32 seed) ∧
    (t.refills ≠ s.refills → touchesStream i = true ∨ ∃ seed, i = .init 32 seed) ∧
    (t.gen ≠ s.gen → touchesStream i = true ∨ i = .dispose ∨ ∃ seed, i = .init 32 seed) ∧
    (t.alloc ≠ s.alloc → i = .dispose ∨ ∃ seed, i = .init 32 seed) ∧
    (t.fault ≠ s.fault → touchesStream i = true ∨ i = .dispose) ∧
    (t.fcause ≠ s.fcause → touchesStream i = true ∨ i = .dispose)

/-- R26: BUF is written only by a refill, inside a command that touches the stream (DISPOSE makes it unspecified, R94). -/
def Obligations.BufferIsWrittenOnlyByRefill : Prop :=
  ∀ (i : Instr) (s t : State), exec i s = .next t → i ≠ .dispose →
    (∀ a, t.buf.read a = s.buf.read a) ∨
    (touchesStream i = true ∧ t.refills = s.refills + 1 ∧ ∀ a, t.buf.read a = (refill s).buf.read a)

/-- R39, 10_state.md: what the spec leaves unspecified is never read: two states that agree on everything specified take
steps to states that agree on everything specified, the responses among it. -/
def Obligations.UnspecifiedValuesAreNeverRead : Prop :=
  ∀ s t s' : State, EngineInv s → EngineInv t → AgreeOnSpecified s t → step s = .next s' →
    ∃ t', step t = .next t' ∧ AgreeOnSpecified s' t'

/-! ## Capability, initialisation, disposal (40_init_lifecycle.md) -/

/-- R90: CAPQ answers with the CAP value and writes nothing, in every lifecycle state outside FAULTED. -/
def Obligations.CapqReturnsTheCapabilities : Prop :=
  ∀ s : State, s.fault = false →
    ∃ d : Data, exec .capq s = .next { s with rsp := some ⟨.ok, d⟩ } ∧
      d.getLsbD 0 = s.inst.hasV256 ∧ d.getLsbD 1 = s.inst.hasV512 ∧ d.extractLsb' 2 6 = 0 ∧
      d.extractLsb' 8 8 = BitVec.ofNat 8 s.inst.capLog2 ∧ d.extractLsb' 16 496 = 0

/-- R91: a successful INIT and its frame: the vectors from the payload and PHI, the cursor at CAPACITY, no refill, the
block allocated; every buffer byte, EXMODE, FAULT and FCAUSE as before. -/
def Obligations.InitConstructsTheGenerator : Prop :=
  ∀ (s : State) (seed : Vec), s.fault = false → s.inst.hasV256 = true → s.alloc = false →
    ∃ t, exec (.init 32 seed) s = .next t ∧ t.rsp = some ⟨.ok, 0⟩ ∧
      t.gen = iter warmUpStep 13 (seedLoad s.inst.phi (seedWord seed)) ∧
      t.cursor = s.capacity ∧ t.refills = 0 ∧ t.alloc = true ∧
      (∀ a, t.buf.read a = s.buf.read a) ∧ t.exmode = s.exmode ∧ t.fault = s.fault ∧ t.fcause = s.fcause ∧
      t.inst = s.inst

/-- R91, R198: the conditions of INIT, in their order, each without any change of state. -/
def Obligations.InitConditionsComeInOrder : Prop :=
  ∀ (s : State) (len : BitVec 8) (seed : Vec), s.fault = false →
    (s.inst.hasV256 = false →
      exec (.init len seed) s = .next { s with rsp := some ⟨.unsupportedOperation, 0⟩ }) ∧
    (s.inst.hasV256 = true → len ≠ 32 →
      exec (.init len seed) s = .next { s with rsp := some ⟨.invalidArgument, 0⟩ }) ∧
    (s.inst.hasV256 = true → len = 32 → s.alloc = true →
      exec (.init len seed) s = .next { s with rsp := some ⟨.resourceError, 0⟩ })

/-- R92, R96: the pairing of the sixteen constants with the four seed words, and the zero outputs and counter. -/
def Obligations.SeedLoadPairsConstantsWithSeedWords : Prop :=
  ∀ (phi : Vector Quad 16) (pl : Vec) (g : Gen), g = seedLoad phi (seedWord pl) →
    (quad g.s.v0 0 = phi[0] ^^^ pl.extractLsb' 0 64 ∧ quad g.s.v0 1 = phi[1] ∧
     quad g.s.v0 2 = phi[2] ^^^ pl.extractLsb' 64 64 ∧ quad g.s.v0 3 = phi[3]) ∧
    (quad g.s.v1 0 = phi[4] ^^^ pl.extractLsb' 128 64 ∧ quad g.s.v1 1 = phi[5] ∧
     quad g.s.v1 2 = phi[6] ^^^ pl.extractLsb' 192 64 ∧ quad g.s.v1 3 = phi[7]) ∧
    (quad g.s.v2 0 = phi[8] ^^^ pl.extractLsb' 128 64 ∧ quad g.s.v2 1 = phi[9] ∧
     quad g.s.v2 2 = phi[10] ^^^ pl.extractLsb' 192 64 ∧ quad g.s.v2 3 = phi[11]) ∧
    (quad g.s.v3 0 = phi[12] ^^^ pl.extractLsb' 0 64 ∧ quad g.s.v3 1 = phi[13] ∧
     quad g.s.v3 2 = phi[14] ^^^ pl.extractLsb' 64 64 ∧ quad g.s.v3 3 = phi[15]) ∧
    g.o = ⟨0, 0, 0, 0⟩ ∧ g.ctr = 0

/-- R93: the warm-up ends with `S[i] = O[3-i]` and, from a zero counter, with the counter at 13 increments. -/
def Obligations.WarmUpEndsWithReversedOutputs : Prop :=
  ∀ g : Gen,
    (warmUp g).s = ⟨(warmUp g).o.v3, (warmUp g).o.v2, (warmUp g).o.v1, (warmUp g).o.v0⟩ ∧
    (g.ctr = 0 → quad (warmUp g).ctr 0 = 91 ∧ quad (warmUp g).ctr 1 = 65 ∧ quad (warmUp g).ctr 2 = 39 ∧
      quad (warmUp g).ctr 3 = 13)

/-- R97: what INIT leaves depends on the payload, PHI and CAPACITY alone, and on nothing left by earlier use. -/
def Obligations.ConstructionDependsOnPayloadAndPhiAlone : Prop :=
  ∀ (s₁ s₂ t₁ t₂ : State) (seed : Vec), s₁.inst.phi = s₂.inst.phi →
    exec (.init 32 seed) s₁ = .next t₁ → exec (.init 32 seed) s₂ = .next t₂ →
    t₁.rsp = some ⟨.ok, 0⟩ → t₂.rsp = some ⟨.ok, 0⟩ →
      t₁.gen = t₂.gen ∧ t₁.refills = t₂.refills ∧ t₁.alloc = t₂.alloc ∧ (s₁.capacity = s₂.capacity → t₁.cursor = t₂.cursor)

/-- R94: a successful DISPOSE and its frame: ALLOC cleared; CURSOR, REFILLS, CFG, FAULT and FCAUSE kept. The vectors and
the buffer become unspecified, so nothing is said of them. -/
def Obligations.DisposeReleasesTheBlock : Prop :=
  ∀ s : State, s.fault = false → s.alloc = true →
    ∃ t, exec .dispose s = .next t ∧ t.rsp = some ⟨.ok, 0⟩ ∧ t.alloc = false ∧ t.cursor = s.cursor ∧
      t.refills = s.refills ∧ t.exmode = s.exmode ∧ t.fault = s.fault ∧ t.fcause = s.fcause ∧ t.inst = s.inst

/-! ## Vectors and the round (00_scope.md R7, R9, 41_round_function.md) -/

/-- R7, R24: the two element views are of the same bits, and a vector is made of its quads. -/
def Obligations.ViewsAliasTheSameBits : Prop :=
  (∀ (v : Vec) (k : Nat), k < 4 → quad v k = dword v (2 * k + 1) ++ dword v (2 * k)) ∧
  (∀ v : Vec, ofQuads (quad v 0) (quad v 1) (quad v 2) (quad v 3) = v) ∧
  (∀ v : Vec, ofDwords (dword v 0) (dword v 1) (dword v 2) (dword v 3)
    (dword v 4) (dword v 5) (dword v 6) (dword v 7) = v)

/-- R9: what the vector primitives do to each element. -/
def Obligations.VectorPrimitivesWorkPerElement : Prop :=
  (∀ (a b : Vec) (k : Nat), k < 4 → quad (add64x4 a b) k = quad a k + quad b k) ∧
  (∀ (a : Vec) (n k : Nat), k < 4 → quad (srl64x4 a n) k = quad a k >>> n) ∧
  (∀ (a b : Vec) (j : Nat), j < 256 → (xor256 a b).getLsbD j = (a.getLsbD j ^^ b.getLsbD j)) ∧
  (∀ (a : Vec) (p : Vector (Fin 8) 8) (j : Fin 8), dword (permute32 a p) j = dword a p[j])

/-- R120: the two permutations are rotations of the eight dwords, that is of the 256-bit number. -/
def Obligations.PermutationsAreRotations : Prop :=
  (∀ j : Fin 8, (permEven[j] : Nat) = (j + 5) % 8 ∧ (permOdd[j] : Nat) = (j + 3) % 8) ∧
  (∀ (v : Vec) (j : Nat), j < 8 →
    dword (permute32 v permEven) j = dword v ((j + 5) % 8) ∧ dword (permute32 v permOdd) j = dword v ((j + 3) % 8)) ∧
  (∀ v : Vec, permute32 v permEven = v.rotateRight 160 ∧ permute32 v permEven = v.rotateLeft 96 ∧
    permute32 v permOdd = v.rotateRight 96 ∧ permute32 v permOdd = v.rotateLeft 160)

/-- R112 to R117, steps 2 to 6 of a round (step 1 is `RoundEmitsTheOldOutputs`): the new state vectors, outputs and counter of a round, quad by quad, from the old state vectors and
counter (`a1`, `a3` are the state vectors 1 and 3 after the counter injection). -/
def Obligations.RoundComputesStepsTwoToSix : Prop :=
  ∀ (g r : Gen) (a1 a3 : Vec), r = roundFn g →
    (∀ k, k < 4 → quad a1 k = quad g.s.v1 k + quad g.ctr k ∧ quad a3 k = quad g.s.v3 k + quad g.ctr k) →
    (∀ k, k < 4 →
      quad r.s.v0 k = quad (permute32 g.s.v0 permEven) k + (quad g.s.v0 k >>> 1) ∧
      quad r.s.v1 k = quad (permute32 a1 permOdd) k + (quad a1 k >>> 3) ∧
      quad r.s.v2 k = quad (permute32 g.s.v2 permEven) k + (quad g.s.v2 k >>> 1) ∧
      quad r.s.v3 k = quad (permute32 a3 permOdd) k + (quad a3 k >>> 3) ∧
      quad r.o.v0 k = ((quad g.s.v0 k >>> 1) ^^^ quad (permute32 a1 permOdd) k) ∧
      quad r.o.v1 k = ((quad g.s.v2 k >>> 1) ^^^ quad (permute32 a3 permOdd) k) ∧
      quad r.o.v2 k = (quad r.s.v0 k ^^^ quad r.s.v3 k) ∧
      quad r.o.v3 k = (quad r.s.v2 k ^^^ quad r.s.v1 k)) ∧
    quad r.ctr 0 = quad g.ctr 0 + 7 ∧ quad r.ctr 1 = quad g.ctr 1 + 5 ∧ quad r.ctr 2 = quad g.ctr 2 + 3 ∧
    quad r.ctr 3 = quad g.ctr 3 + 1

/-- R23: each quad of the counter after `n` rounds, modulo 2^64 and with no carry between quads. -/
def Obligations.CounterAfterRounds : Prop :=
  ∀ (g : Gen) (n : Nat) (k : Fin 4),
    quad (iter roundFn n g).ctr k = quad g.ctr k + BitVec.ofNat 64 (n * (#v[7, 5, 3, 1] : Vector Nat 4)[k])

/-- R119: the round is a function of `S` and `CTR` alone; the old outputs are only emitted. -/
def Obligations.RoundDependsOnStateAndCounterOnly : Prop :=
  ∀ (s : Bank) (c : Vec) (o₁ o₂ : Bank), roundFn ⟨s, o₁, c⟩ = roundFn ⟨s, o₂, c⟩

/-- R111, R118, R51, R52: a round to the buffer writes the old output vectors, little-endian and in index order, to 128
bytes and no others; a round to the sink writes none; both advance the vectors alike. -/
def Obligations.RoundEmitsTheOldOutputs : Prop :=
  ∀ (s : State) (dst : Nat),
    (∀ b, b < 32 →
      (runRound (some dst) s).buf.read (dst + b) = some (s.gen.o.v0.extractLsb' (8 * b) 8) ∧
      (runRound (some dst) s).buf.read (dst + 32 + b) = some (s.gen.o.v1.extractLsb' (8 * b) 8) ∧
      (runRound (some dst) s).buf.read (dst + 64 + b) = some (s.gen.o.v2.extractLsb' (8 * b) 8) ∧
      (runRound (some dst) s).buf.read (dst + 96 + b) = some (s.gen.o.v3.extractLsb' (8 * b) 8)) ∧
    (∀ a, (a < dst ∨ dst + 128 ≤ a) → (runRound (some dst) s).buf.read a = s.buf.read a) ∧
    (∀ a, (runRound none s).buf.read a = s.buf.read a) ∧
    (runRound (some dst) s).gen = roundFn s.gen ∧ (runRound none s).gen = roundFn s.gen

/-! ## The buffer (42_buffer_read.md) -/

/-- R130: the model's refill is the loop of rounds of the spec, and it overwrites every byte of BUF: byte `128 m + 32 i + b`
is then byte `b` of the output vector `i` that round `m` of the loop emits, whatever it was before; and it writes no other
byte. -/
def Obligations.RefillIsTheLoopOfRounds : Prop :=
  ∀ s : State,
    refill s =
      { (List.range (s.capacity / 128)).foldl (fun u c => runRound (some (128 * c)) u) s with
        cursor := 0, refills := s.refills + 1 } ∧
    (s.inst.wf = true → ∀ m b, m < s.capacity / 128 → b < 32 →
      (refill s).buf.read (128 * m + b) = some ((iter roundFn m s.gen).o.v0.extractLsb' (8 * b) 8) ∧
      (refill s).buf.read (128 * m + 32 + b) = some ((iter roundFn m s.gen).o.v1.extractLsb' (8 * b) 8) ∧
      (refill s).buf.read (128 * m + 64 + b) = some ((iter roundFn m s.gen).o.v2.extractLsb' (8 * b) 8) ∧
      (refill s).buf.read (128 * m + 96 + b) = some ((iter roundFn m s.gen).o.v3.extractLsb' (8 * b) 8)) ∧
    (∀ a, s.capacity ≤ a → (refill s).buf.read a = s.buf.read a)

/-- R139, R124: after a refill chunk `m` of the buffer is the output of `m` rounds from the vectors before it, and the
vectors are those whose outputs the next refill emits first. -/
def Obligations.RefillFillsTheBufferWithTheStream : Prop :=
  ∀ (s : State) (m b : Nat), s.inst.wf = true → m < s.capacity / 128 → b < 32 →
    (refill s).buf.read (128 * m + b) = some ((iter roundFn m s.gen).o.v0.extractLsb' (8 * b) 8) ∧
    (refill s).buf.read (128 * m + 32 + b) = some ((iter roundFn m s.gen).o.v1.extractLsb' (8 * b) 8) ∧
    (refill s).buf.read (128 * m + 64 + b) = some ((iter roundFn m s.gen).o.v2.extractLsb' (8 * b) 8) ∧
    (refill s).buf.read (128 * m + 96 + b) = some ((iter roundFn m s.gen).o.v3.extractLsb' (8 * b) 8) ∧
    (refill s).gen = iter roundFn (s.capacity / 128) s.gen

/-- R132: ENSURE refills exactly when fewer bytes are left than it names, returns no bytes and does not advance the
cursor. -/
def Obligations.EnsureRefillsExactlyWhenShort : Prop :=
  ∀ (s : State) (n : BitVec 8), s.fault = false → s.alloc = true → (n = 8 ∨ n = 32 ∨ n = 64) →
    exec (.ensure n) s =
      .next { (if s.capacity < s.cursor + n.toNat then refill s else s) with rsp := some ⟨.ok, 0⟩ }

/-- R131, R133, R158, R159, R160: the four scalar draws take the same 8 bytes at the cursor, after a refill exactly when
fewer are left, and move the cursor past them; their results are made of that word. -/
def Obligations.ScalarDrawsReadAtTheCursor : Prop :=
  ∀ s u : State, EngineInv s → s.fault = false → s.alloc = true →
    u = (if s.capacity < s.cursor + 8 then refill s else s) →
    ∃ v : Quad, BytesAt u u.cursor 8 v ∧
      exec .nextraw s = .next { u with cursor := u.cursor + 8, rsp := some ⟨.ok, zext512 v⟩ } ∧
      exec .next s = .next { u with cursor := u.cursor + 8, rsp := some ⟨.ok, zext512 (v.extractLsb' 32 32)⟩ } ∧
      exec .nextdouble s = .next { u with cursor := u.cursor + 8, rsp := some ⟨.ok, zext512 (extD s.exmode v)⟩ } ∧
      exec .nextfloat s = .next { u with cursor := u.cursor + 8, rsp := some ⟨.ok, zext512 (extF s.exmode v)⟩ }

/-- R131, R134, R161: the two 256-bit draws take the same 32 bytes at the cursor. -/
def Obligations.WideDrawsReadAtTheCursor : Prop :=
  ∀ s u : State, EngineInv s → s.fault = false → s.alloc = true →
    u = (if s.capacity < s.cursor + 32 then refill s else s) →
    ∃ v r : Vec, BytesAt u u.cursor 32 v ∧ (∀ k, k < 4 → quad r k = extD s.exmode (quad v k)) ∧
      exec .read256 s = .next { u with cursor := u.cursor + 32, rsp := some ⟨.ok, zext512 v⟩ } ∧
      exec .nextdoubles256 s = .next { u with cursor := u.cursor + 32, rsp := some ⟨.ok, zext512 r⟩ }

/-- R131, R135, R162: the two 512-bit draws take the same 64 bytes at the cursor, on an instance that has the path. -/
def Obligations.WidestDrawsReadAtTheCursor : Prop :=
  ∀ s u : State, EngineInv s → s.fault = false → s.alloc = true → s.inst.hasV512 = true →
    u = (if s.capacity < s.cursor + 64 then refill s else s) →
    ∃ v r : Data, BytesAt u u.cursor 64 v ∧ (∀ k, k < 8 → quad r k = extD s.exmode (quad v k)) ∧
      exec .read512 s = .next { u with cursor := u.cursor + 64, rsp := some ⟨.ok, v⟩ } ∧
      exec .nextdoubles512 s = .next { u with cursor := u.cursor + 64, rsp := some ⟨.ok, r⟩ }

/-- The frame of the commands that touch the stream: ALLOC, CFG and the parameters never change; where the command
succeeds FAULT and FCAUSE do not; and the vectors, REFILLS and every byte change only by a refill, which stores to
offsets 0 to CAPACITY-1 alone. -/
def Obligations.StreamCommandsFrame : Prop :=
  ∀ (i : Instr) (s t : State), touchesStream i = true → exec i s = .next t →
    t.alloc = s.alloc ∧ t.exmode = s.exmode ∧ t.inst = s.inst ∧
    ((∃ d, t.rsp = some ⟨.ok, d⟩) → t.fault = s.fault ∧ t.fcause = s.fcause) ∧
    ((∀ d, t.rsp ≠ some ⟨.ok, d⟩) → t.cursor = s.cursor) ∧
    ((∀ d, t.rsp ≠ some ⟨.ok, d⟩) ∨ s.cursor + bytesNeeded i ≤ s.capacity →
      t.gen = s.gen ∧ t.refills = s.refills ∧ ∀ a, t.buf.read a = s.buf.read a) ∧
    (∀ a, s.capacity ≤ a → t.buf.read a = s.buf.read a)

/-- S3 of 95_test_vectors.md, R51, R134, R161: where 32 bytes are left, a 256-bit draw is four scalar draws from the same
state: the same words or doubles, and the same end state. -/
def Obligations.WideDrawsAreFourScalarDraws : Prop :=
  ∀ s : State, EngineInv s → s.fault = false → s.alloc = true → s.cursor + 32 ≤ s.capacity →
    (∃ (u : State) (r : Data), repeatCommand .nextraw 4 s = some ((List.range 4).map (fun k => zext512 (quad r k)), u) ∧
      exec .read256 s = .next { u with rsp := some ⟨.ok, r⟩ } ∧ r.extractLsb' 256 256 = 0) ∧
    (∃ (u : State) (r : Data),
      repeatCommand .nextdouble 4 s = some ((List.range 4).map (fun k => zext512 (quad r k)), u) ∧
      exec .nextdoubles256 s = .next { u with rsp := some ⟨.ok, r⟩ } ∧ r.extractLsb' 256 256 = 0)

/-- S3 of 95_test_vectors.md, R51, R135, R162: the same for a 512-bit draw and eight scalar draws. -/
def Obligations.WidestDrawsAreEightScalarDraws : Prop :=
  ∀ s : State, EngineInv s → s.fault = false → s.alloc = true → s.inst.hasV512 = true → s.cursor + 64 ≤ s.capacity →
    (∃ (u : State) (r : Data), repeatCommand .nextraw 8 s = some ((List.range 8).map (fun k => zext512 (quad r k)), u) ∧
      exec .read512 s = .next { u with rsp := some ⟨.ok, r⟩ }) ∧
    (∃ (u : State) (r : Data),
      repeatCommand .nextdouble 8 s = some ((List.range 8).map (fun k => zext512 (quad r k)), u) ∧
      exec .nextdoubles512 s = .next { u with rsp := some ⟨.ok, r⟩ })

/-- R139: a host that issues only 8-byte draws, any of the four in any order, from a buffer with no unread byte (as INIT
leaves it), reads the stream without a gap, whatever CAPACITY is: the `k`-th answer is made of word `k`. -/
def Obligations.ScalarDrawsReadTheStreamWhateverTheCapacity : Prop :=
  ∀ (s : State) (is : List Instr), EngineInv s → s.fault = false → s.alloc = true → s.cursor = s.capacity →
    (∀ i ∈ is, i ∈ scalarDraws) →
    ∃ ds u, runCommands is s = some (ds, u) ∧
      ds.map some = is.mapIdx fun k i => scalarResult s.exmode i (streamWord s.gen k)

/-- R140: the refill count property. -/
def Obligations.ConsumingTheBufferTriggersOneRefill : Prop :=
  ∀ (s t : State) (seed : Vec), EngineInv s → exec (.init 32 seed) s = .next t → t.rsp = some ⟨.ok, 0⟩ →
    ∃ ds u w, repeatCommand .nextraw (t.capacity / 8) t = some (ds, u) ∧ u.cursor = t.capacity ∧ u.refills = 1 ∧
      exec .nextraw u = .next w ∧ w.cursor = 8 ∧ w.refills = 2 ∧
      w.rsp = some ⟨.ok, zext512 (streamWord t.gen (t.capacity / 8))⟩

/-- R23, R93, R130: the counter after INIT and `n` refills. -/
def Obligations.CounterAfterInitAndRefills : Prop :=
  ∀ (s t : State) (seed : Vec) (n : Nat) (k : Fin 4), exec (.init 32 seed) s = .next t → t.rsp = some ⟨.ok, 0⟩ →
    quad (iter refill n t).gen.ctr k =
      BitVec.ofNat 64 ((13 + n * (t.capacity / 128)) * (#v[7, 5, 3, 1] : Vector Nat 4)[k])

/-! ## Extraction (43_extraction.md) -/

/-- R150, R152: the double that the extraction of a word stands for, exactly, in both forms. -/
def Obligations.DoubleExtractionIsExact : Prop :=
  ∀ v : Quad,
    binary64Value (extD .shift v) = some (((v.toNat / 2 ^ 11 : Nat) : ℚ) / 2 ^ 53) ∧
    binary64Value (extD .mask v) = some (((v.toNat % 2 ^ 53 : Nat) : ℚ) / 2 ^ 53)

/-- R151, R152: the float that the extraction of a word stands for, exactly, in both forms. -/
def Obligations.FloatExtractionIsExact : Prop :=
  ∀ v : Quad,
    binary32Value (extF .shift v) = some (((v.toNat / 2 ^ 40 : Nat) : ℚ) / 2 ^ 24) ∧
    binary32Value (extF .mask v) = some (((v.toNat % 2 ^ 24 : Nat) : ℚ) / 2 ^ 24)

/-- R156: every result is +0 or a normal number in [0, 1), with the least and greatest values the rule prints. -/
def Obligations.ExtractionResultsLieInTheUnitInterval : Prop :=
  (∀ (m : ExMode) (v : Quad), ∃ q, binary64Value (extD m v) = some q ∧ 0 ≤ q ∧ q ≤ 1 - 1 / 2 ^ 53 ∧
    (q = 0 ∨ 1 / 2 ^ 53 ≤ q)) ∧
  (∀ (m : ExMode) (v : Quad), ∃ q, binary32Value (extF m v) = some q ∧ 0 ≤ q ∧ q ≤ 1 - 1 / 2 ^ 24 ∧
    (q = 0 ∨ 1 / 2 ^ 24 ≤ q)) ∧
  encD 0 = 0 ∧ encD 1 = 0x3CA0000000000000 ∧ encD 0x1FFFFFFFFFFFFF = 0x3FEFFFFFFFFFFFFF ∧
  encF 0 = 0 ∧ encF 1 = 0x33800000 ∧ encF 0xFFFFFF = 0x3F7FFFFF

/-- R158: NEXT's result is the word's top half, read as signed the word divided by 2^32 and rounded down, and it is not
sign-extended into the data field. -/
def Obligations.NextIsTheSignedTopHalf : Prop :=
  ∀ v : Quad, (topHalf v).toInt = v.toInt / 2 ^ 32 ∧ -2 ^ 31 ≤ (topHalf v).toInt ∧ (topHalf v).toInt < 2 ^ 31 ∧
    (zext512 (topHalf v)).extractLsb' 0 32 = v.extractLsb' 32 32 ∧ (zext512 (topHalf v)).extractLsb' 32 480 = 0

/-- R163, R164: the conversions answer in every lifecycle state outside FAULTED, in the form CFG selects, and write
nothing. -/
def Obligations.ConversionsNeedNoGenerator : Prop :=
  ∀ (s : State) (v : Quad), s.fault = false →
    exec (.cvtd v) s = .next { s with rsp := some ⟨.ok, zext512 (encD
      (if s.exmode = .shift then v.extractLsb' 11 53 else v.extractLsb' 0 53))⟩ } ∧
    exec (.cvtf v) s = .next { s with rsp := some ⟨.ok, zext512 (encF
      (if s.exmode = .shift then v.extractLsb' 40 24 else v.extractLsb' 0 24))⟩ }

/-! ## Register access (44_system.md) -/

/-- R180: RDREG answers each of the five registers with its value and writes nothing. -/
def Obligations.RdregReturnsEachRegister : Prop :=
  ∀ s : State, s.fault = false →
    exec (.rdreg 0) s = .next { s with rsp := some ⟨.ok, zext512 (capValue s.inst)⟩ } ∧
    exec (.rdreg 1) s = .next { s with rsp := some ⟨.ok, if s.alloc then 1 else 0⟩ } ∧
    exec (.rdreg 2) s = .next { s with rsp := some ⟨.ok, if s.exmode = .mask then 1 else 0⟩ } ∧
    exec (.rdreg 3) s = .next { s with rsp := some ⟨.ok, zext512 (BitVec.ofNat 64 s.cursor)⟩ } ∧
    exec (.rdreg 4) s = .next { s with rsp := some ⟨.ok, zext512 s.refills⟩ }

/-- R181: WRREG of CFG with the reserved bits zero writes EXMODE and nothing else. -/
def Obligations.WrregWritesTheExtractionForm : Prop :=
  ∀ s : State, s.fault = false →
    exec (.wrreg 2 0) s = .next { s with exmode := .shift, rsp := some ⟨.ok, 0⟩ } ∧
    exec (.wrreg 2 1) s = .next { s with exmode := .mask, rsp := some ⟨.ok, 0⟩ }

/-- The frame of the commands that write no state (R90, R163, R164, R180): whatever they answer, every register and every
byte is unchanged. -/
def Obligations.ReadingCommandsWriteNothing : Prop :=
  ∀ (i : Instr) (s t : State), writesNothing i = true → exec i s = .next t → t = { s with rsp := t.rsp }
end

