-- ==== Sys2Proof/Laws/Memory.lean ====
section
/-! SUPPORT. The laws of the buffer memory: what a read gives after a write, that a write keeps the canonical form, that
equal reads mean equal data, and what a multi-byte read returns. -/

namespace Sys2Proof.Machine

/-! ## One byte -/

@[simp] theorem Memory.read_nil (x : Nat) : Memory.read [] x = none := rfl

theorem Memory.read_cons (c : Host.Cell) (m : Memory) (x : Nat) :
    Memory.read (c :: m) x = if c.1 = x then some c.2 else Memory.read m x := rfl

theorem Memory.read_append (m₁ m₂ : Memory) (x : Nat) :
    Memory.read (m₁ ++ m₂) x = (Memory.read m₁ x).or (Memory.read m₂ x) := by
  induction m₁ with
  | nil => rfl
  | cons c m ih =>
    by_cases h : c.1 = x <;> simp [Memory.read_cons, h, ih]

theorem Memory.read_filter (p : Nat → Bool) (m : Memory) (x : Nat) :
    Memory.read (m.filter fun c => p c.1) x = if p x then Memory.read m x else none := by
  induction m with
  | nil => simp
  | cons c m ih =>
    by_cases hc : p c.1 <;> by_cases hx : c.1 = x
    · subst hx; simp [Memory.read_cons, hc]
    · simp [Memory.read_cons, hc, hx, ih]
    · subst hx; simp [hc, ih]
    · simp [Memory.read_cons, hc, hx, ih]

theorem read_cellsFrom (a : Nat) (bs : List Byte) (x : Nat) :
    Memory.read (cellsFrom a bs) x = if a ≤ x then bs[x - a]? else none := by
  induction bs generalizing a with
  | nil => simp [cellsFrom]
  | cons b bs ih =>
    rw [cellsFrom, Memory.read_cons, ih]
    rcases Nat.lt_trichotomy a x with h | h | h
    · obtain ⟨k, rfl⟩ : ∃ k, x = a + 1 + k := ⟨x - a - 1, by omega⟩
      have : a + 1 + k - a = k + 1 := by omega
      simp [this, show a ≠ a + 1 + k by omega, show a ≤ a + 1 + k by omega]
    · subst h; simp
    · simp [show a ≠ x by omega, show ¬ a ≤ x by omega, show ¬ a + 1 ≤ x by omega]

/-- A run of bytes written at `a`: inside the run the read gives the run's byte, outside it what it gave before. -/
theorem Memory.read_writeRun (m : Memory) (a : Nat) (bs : List Byte) (x : Nat) :
    (m.writeRun a bs).read x = if a ≤ x ∧ x < a + bs.length then bs[x - a]? else m.read x := by
  have h1 := Memory.read_filter (fun k => decide (k < a)) m x
  have h2 := Memory.read_filter (fun k => decide (a + bs.length ≤ k)) m x
  simp only [Memory.writeRun, Memory.read_append, h1, h2, read_cellsFrom, decide_eq_true_eq]
  rcases Nat.lt_or_ge x a with h | h
  · simp [h, show ¬ a ≤ x by omega, show ¬ a + bs.length ≤ x by omega]
  · rcases Nat.lt_or_ge x (a + bs.length) with h' | h'
    · simp [h, h', show ¬ x < a by omega, show x - a < bs.length by omega]
    · simp [h, h', show ¬ x < a by omega, show ¬ x < a + bs.length by omega, show bs.length ≤ x - a by omega]

/-! ## The canonical form -/

theorem Memory.wf_iff (m : Memory) : m.wf = true ↔ m.Pairwise fun c d => c.1 < d.1 := by
  match m with
  | [] => simp [Memory.wf]
  | [c] => simp [Memory.wf]
  | c :: d :: m =>
    have ih := Memory.wf_iff (d :: m)
    rw [Memory.wf, Bool.and_eq_true, ih, decide_eq_true_eq, List.pairwise_cons (l := d :: m)]
    refine and_congr_left fun h => ⟨fun hcd e he => ?_, fun h' => h' d (by simp)⟩
    rcases List.mem_cons.1 he with rfl | he
    · exact hcd
    · exact Nat.lt_trans hcd ((List.pairwise_cons.1 h).1 e he)

theorem mem_cellsFrom {a : Nat} {bs : List Byte} {c : Host.Cell} (h : c ∈ cellsFrom a bs) :
    a ≤ c.1 ∧ c.1 < a + bs.length := by
  induction bs generalizing a with
  | nil => simp [cellsFrom] at h
  | cons b bs ih =>
    rcases List.mem_cons.1 h with rfl | h
    · simp
    · have := ih h
      simp only [List.length_cons]; omega

theorem pairwise_cellsFrom (a : Nat) (bs : List Byte) : (cellsFrom a bs).Pairwise fun c d => c.1 < d.1 := by
  induction bs generalizing a with
  | nil => exact List.Pairwise.nil
  | cons b bs ih => exact List.pairwise_cons.2 ⟨fun c hc => (mem_cellsFrom hc).1, ih (a + 1)⟩

/-- Writing keeps the canonical form. -/
theorem Memory.wf_writeRun {m : Memory} (h : m.wf = true) (a : Nat) (bs : List Byte) :
    (m.writeRun a bs).wf = true := by
  rw [Memory.wf_iff] at h ⊢
  refine List.pairwise_append.2 ⟨h.filter _, List.pairwise_append.2 ⟨pairwise_cellsFrom a bs, h.filter _, ?_⟩, ?_⟩
  · intro c hc d hd
    have h1 := mem_cellsFrom hc
    have h2 := (List.mem_filter.1 hd).2
    simp only [decide_eq_true_eq] at h2
    omega
  · intro c hc d hd
    have h1 := (List.mem_filter.1 hc).2
    simp only [decide_eq_true_eq] at h1
    rcases List.mem_append.1 hd with hd | hd
    · have := mem_cellsFrom hd; omega
    · have h2 := (List.mem_filter.1 hd).2
      simp only [decide_eq_true_eq] at h2
      omega

theorem Memory.mem_writeRun {m : Memory} {a : Nat} {bs : List Byte} {c : Host.Cell} (h : c ∈ m.writeRun a bs) :
    c ∈ m ∨ (a ≤ c.1 ∧ c.1 < a + bs.length) := by
  rcases List.mem_append.1 h with h | h
  · exact .inl (List.mem_filter.1 h).1
  · rcases List.mem_append.1 h with h | h
    · exact .inr (mem_cellsFrom h)
    · exact .inl (List.mem_filter.1 h).1

theorem Memory.read_eq_none_of_forall_ne {m : Memory} {x : Nat} (h : ∀ c ∈ m, c.1 ≠ x) : m.read x = none := by
  induction m with
  | nil => rfl
  | cons c m ih =>
    rw [Memory.read_cons, if_neg (h c (by simp)), ih fun d hd => h d (by simp [hd])]

/-- Two canonical memories that read alike are the same data. -/
theorem Memory.eq_of_read_eq {m₁ m₂ : Memory} (h₁ : m₁.wf = true) (h₂ : m₂.wf = true)
    (h : ∀ x, m₁.read x = m₂.read x) : m₁ = m₂ := by
  rw [Memory.wf_iff] at h₁ h₂
  induction m₁ generalizing m₂ with
  | nil =>
    cases m₂ with
    | nil => rfl
    | cons d m₂ => have := h d.1; simp [Memory.read_cons] at this
  | cons c m₁ ih =>
    cases m₂ with
    | nil => have := h c.1; simp [Memory.read_cons] at this
    | cons d m₂ =>
      obtain ⟨hc, h₁⟩ := List.pairwise_cons.1 h₁
      obtain ⟨hd, h₂'⟩ := List.pairwise_cons.1 h₂
      have key : c.1 = d.1 := by
        rcases Nat.lt_trichotomy c.1 d.1 with hlt | heq | hgt
        · have := h c.1
          rw [Memory.read_cons, if_pos rfl, Memory.read_cons, if_neg (by omega),
            Memory.read_eq_none_of_forall_ne fun e he => by have := hd e he; omega] at this
          cases this
        · exact heq
        · have := h d.1
          rw [Memory.read_cons, if_neg (by omega), Memory.read_cons, if_pos rfl,
            Memory.read_eq_none_of_forall_ne fun e he => by have := hc e he; omega] at this
          cases this
      have hval : c = d := by
        have := h c.1
        rw [Memory.read_cons, if_pos rfl, Memory.read_cons, if_pos key.symm] at this
        exact Prod.ext key (Option.some.inj this)
      subst hval
      refine congrArg (c :: ·) (ih h₁ h₂' fun x => ?_)
      by_cases hx : c.1 = x
      · subst hx
        rw [Memory.read_eq_none_of_forall_ne fun e he => by have := hc e he; omega,
          Memory.read_eq_none_of_forall_ne fun e he => by have := hd e he; omega]
      · have := h x
        rwa [Memory.read_cons, if_neg hx, Memory.read_cons, if_neg hx] at this

/-- Two runs written one right after the other are one run. -/
theorem Memory.writeRun_writeRun (m : Memory) (a : Nat) (bs cs : List Byte) :
    (m.writeRun a bs).writeRun (a + bs.length) cs = m.writeRun a (bs ++ cs) := by
  have cells : ∀ (a : Nat) (bs : List Byte), cellsFrom a bs ++ cellsFrom (a + bs.length) cs = cellsFrom a (bs ++ cs) := by
    intro a bs
    induction bs generalizing a with
    | nil => rfl
    | cons b bs ih =>
      have := ih (a + 1)
      rw [show a + 1 + bs.length = a + (bs.length + 1) by omega] at this
      simp [cellsFrom, this]
  have low : (cellsFrom a bs).filter (fun c => decide (c.1 < a + bs.length)) = cellsFrom a bs :=
    List.filter_eq_self.2 fun c hc => by simpa using (mem_cellsFrom hc).2
  have high : (cellsFrom a bs).filter (fun c => decide (a + bs.length + cs.length ≤ c.1)) = [] :=
    List.filter_eq_nil_iff.2 fun c hc => by have := (mem_cellsFrom hc).2; simp; omega
  have f1 : (m.filter fun c => decide (c.1 < a)).filter (fun c => decide (c.1 < a + bs.length)) =
      m.filter fun c => decide (c.1 < a) := by
    rw [List.filter_filter]; congr 1; funext c; simp; omega
  have f2 : (m.filter fun c => decide (a + bs.length ≤ c.1)).filter (fun c => decide (c.1 < a + bs.length)) = [] := by
    rw [List.filter_filter]; exact List.filter_eq_nil_iff.2 fun c _ => by simp
  have f3 : (m.filter fun c => decide (c.1 < a)).filter (fun c => decide (a + bs.length + cs.length ≤ c.1)) = [] := by
    rw [List.filter_filter]; exact List.filter_eq_nil_iff.2 fun c _ => by simp; omega
  have f4 : (m.filter fun c => decide (a + bs.length ≤ c.1)).filter
      (fun c => decide (a + bs.length + cs.length ≤ c.1)) =
      m.filter fun c => decide (a + (bs ++ cs).length ≤ c.1) := by
    rw [List.filter_filter, List.length_append]; congr 1; funext c; simp only [← Bool.decide_and, decide_eq_decide]; omega
  simp only [Memory.writeRun, List.filter_append, f1, f2, f3, f4, low, high, List.nil_append, List.append_nil,
    ← cells, List.append_assoc]

/-! ## Byte images and multi-byte reads -/

@[simp] theorem length_bytesOf {w : Nat} (v : BitVec w) (n : Nat) : (bytesOf v n).length = n := by simp [bytesOf]

theorem getElem?_bytesOf {w : Nat} (v : BitVec w) (n i : Nat) :
    (bytesOf v n)[i]? = if i < n then some (v.extractLsb' (8 * i) 8) else none := by
  by_cases h : i < n <;> simp [bytesOf, h]

/-- Byte `i + 1` of a value with a new lowest byte is byte `i` of the rest. -/
theorem extract_append_byte {n : Nat} (hi : BitVec (8 * n)) (b : Byte) (i : Nat) :
    (hi ++ b : BitVec (8 * n + 8)).extractLsb' (8 * (i + 1)) 8 = hi.extractLsb' (8 * i) 8 := by
  ext j hj
  rw [BitVec.getElem_extractLsb', BitVec.getElem_extractLsb', BitVec.getLsbD_append]
  rw [if_neg (by omega), show 8 * (i + 1) + j - 8 = 8 * i + j by omega]

theorem extract_append_low {n : Nat} (hi : BitVec (8 * n)) (b : Byte) :
    (hi ++ b : BitVec (8 * n + 8)).extractLsb' 0 8 = b := by
  ext j hj
  rw [BitVec.getElem_extractLsb', BitVec.getLsbD_append, if_pos (by omega)]
  simp [hj]

/-- A multi-byte read succeeds with exactly the value whose little-endian image the bytes are. -/
theorem Memory.readLE_eq_some_iff (m : Memory) (a n : Nat) (v : BitVec (8 * n)) :
    m.readLE a n = some v ↔ ∀ i, i < n → m.read (a + i) = some (v.extractLsb' (8 * i) 8) := by
  induction n generalizing a with
  | zero => exact ⟨fun _ i hi => absurd hi (by omega), fun _ => by simp [Memory.readLE]; exact (BitVec.eq_of_getLsbD_eq (by omega)).symm⟩
  | succ n ih =>
    constructor
    · intro h i hi
      rw [Memory.readLE] at h
      split at h
      · rename_i b hi' hb hhi
        obtain rfl := Option.some.inj h
        rcases i with _ | i
        · rw [Nat.add_zero, hb, Nat.mul_zero, extract_append_low]
        · rw [extract_append_byte, ← (ih _ _).1 hhi i (by omega)]
          congr 1; omega
      · cases h
    · intro h
      have h0 := h 0 (by omega)
      rw [Nat.add_zero, Nat.mul_zero] at h0
      obtain ⟨hi, b, rfl⟩ : ∃ (hi : BitVec (8 * n)) (b : Byte), v = (hi ++ b : BitVec (8 * n + 8)) := by
        refine ⟨v.extractLsb' 8 (8 * n), v.extractLsb' 0 8, ?_⟩
        apply BitVec.eq_of_getLsbD_eq
        intro j hj
        rw [BitVec.getLsbD_append]
        by_cases h8 : j < 8
        · simp [h8]
        · simp [h8, show j - 8 < 8 * n by omega, show 8 + (j - 8) = j by omega]
      rw [extract_append_low] at h0
      have hrest : m.readLE (a + 1) n = some hi := (ih _ _).2 fun i hin => by
        have := h (i + 1) (by omega)
        rw [extract_append_byte] at this
        rw [← this]; congr 1; omega
      rw [Memory.readLE, h0, hrest]

/-- A multi-byte read fails only at a byte without a value. -/
theorem Memory.readLE_isSome {m : Memory} {a n : Nat} (h : ∀ i, i < n → (m.read (a + i)).isSome = true) :
    (m.readLE a n).isSome = true := by
  induction n generalizing a with
  | zero => rfl
  | succ n ih =>
    obtain ⟨b, hb⟩ := Option.isSome_iff_exists.1 (h 0 (by omega))
    obtain ⟨hi, hhi⟩ := Option.isSome_iff_exists.1 (ih (a := a + 1) fun i hin => by
      have := h (i + 1) (by omega)
      rwa [show a + (i + 1) = a + 1 + i by omega] at this)
    rw [Nat.add_zero] at hb
    rw [Memory.readLE, hb, hhi]; rfl

end Sys2Proof.Machine
end

