-- ==== Sys2Proof/Laws/State.lean ====
section
/-! SUPPORT. What each named update of the state does to each field, so that no later proof unfolds a record update. -/

namespace Sys2Proof.Machine

/-! ## respond -/

@[simp] theorem respond_inst (st : Status) (d : Data) (s : State) : (respond st d s).inst = s.inst := rfl
@[simp] theorem respond_gen (st : Status) (d : Data) (s : State) : (respond st d s).gen = s.gen := rfl
@[simp] theorem respond_buf (st : Status) (d : Data) (s : State) : (respond st d s).buf = s.buf := rfl
@[simp] theorem respond_cursor (st : Status) (d : Data) (s : State) : (respond st d s).cursor = s.cursor := rfl
@[simp] theorem respond_alloc (st : Status) (d : Data) (s : State) : (respond st d s).alloc = s.alloc := rfl
@[simp] theorem respond_fault (st : Status) (d : Data) (s : State) : (respond st d s).fault = s.fault := rfl
@[simp] theorem respond_fcause (st : Status) (d : Data) (s : State) : (respond st d s).fcause = s.fcause := rfl
@[simp] theorem respond_exmode (st : Status) (d : Data) (s : State) : (respond st d s).exmode = s.exmode := rfl
@[simp] theorem respond_refills (st : Status) (d : Data) (s : State) : (respond st d s).refills = s.refills := rfl
@[simp] theorem respond_rsp (st : Status) (d : Data) (s : State) : (respond st d s).rsp = some ⟨st, d⟩ := rfl
@[simp] theorem respond_host (st : Status) (d : Data) (s : State) : (respond st d s).host = s.host := rfl
@[simp] theorem respond_received (st : Status) (d : Data) (s : State) : (respond st d s).received = s.received := rfl
@[simp] theorem respond_freeIdx (st : Status) (d : Data) (s : State) : (respond st d s).freeIdx = s.freeIdx := rfl
@[simp] theorem respond_capacity (st : Status) (d : Data) (s : State) : (respond st d s).capacity = s.capacity := rfl

/-! ## respondFault -/

@[simp] theorem respondFault_inst (s : State) : (respondFault s).inst = s.inst := rfl
@[simp] theorem respondFault_gen (s : State) : (respondFault s).gen = s.gen := rfl
@[simp] theorem respondFault_buf (s : State) : (respondFault s).buf = s.buf := rfl
@[simp] theorem respondFault_cursor (s : State) : (respondFault s).cursor = s.cursor := rfl
@[simp] theorem respondFault_alloc (s : State) : (respondFault s).alloc = s.alloc := rfl
@[simp] theorem respondFault_fault (s : State) : (respondFault s).fault = s.fault := rfl
@[simp] theorem respondFault_fcause (s : State) : (respondFault s).fcause = s.fcause := rfl
@[simp] theorem respondFault_exmode (s : State) : (respondFault s).exmode = s.exmode := rfl
@[simp] theorem respondFault_refills (s : State) : (respondFault s).refills = s.refills := rfl
@[simp] theorem respondFault_rsp (s : State) : (respondFault s).rsp = some ⟨.fault, zext512 s.fcause⟩ := rfl
@[simp] theorem respondFault_host (s : State) : (respondFault s).host = s.host := rfl
@[simp] theorem respondFault_received (s : State) : (respondFault s).received = s.received := rfl
@[simp] theorem respondFault_freeIdx (s : State) : (respondFault s).freeIdx = s.freeIdx := rfl
@[simp] theorem respondFault_capacity (s : State) : (respondFault s).capacity = s.capacity := rfl

/-! ## memWrite -/

@[simp] theorem memWrite_inst {w : Nat} (a n : Nat) (v : BitVec w) (s : State) : (memWrite a n v s).inst = s.inst := rfl
@[simp] theorem memWrite_gen {w : Nat} (a n : Nat) (v : BitVec w) (s : State) : (memWrite a n v s).gen = s.gen := rfl
@[simp] theorem memWrite_buf {w : Nat} (a n : Nat) (v : BitVec w) (s : State) : (memWrite a n v s).buf = s.buf.writeRun a (bytesOf v n) := rfl
@[simp] theorem memWrite_cursor {w : Nat} (a n : Nat) (v : BitVec w) (s : State) : (memWrite a n v s).cursor = s.cursor := rfl
@[simp] theorem memWrite_alloc {w : Nat} (a n : Nat) (v : BitVec w) (s : State) : (memWrite a n v s).alloc = s.alloc := rfl
@[simp] theorem memWrite_fault {w : Nat} (a n : Nat) (v : BitVec w) (s : State) : (memWrite a n v s).fault = s.fault := rfl
@[simp] theorem memWrite_fcause {w : Nat} (a n : Nat) (v : BitVec w) (s : State) : (memWrite a n v s).fcause = s.fcause := rfl
@[simp] theorem memWrite_exmode {w : Nat} (a n : Nat) (v : BitVec w) (s : State) : (memWrite a n v s).exmode = s.exmode := rfl
@[simp] theorem memWrite_refills {w : Nat} (a n : Nat) (v : BitVec w) (s : State) : (memWrite a n v s).refills = s.refills := rfl
@[simp] theorem memWrite_rsp {w : Nat} (a n : Nat) (v : BitVec w) (s : State) : (memWrite a n v s).rsp = s.rsp := rfl
@[simp] theorem memWrite_host {w : Nat} (a n : Nat) (v : BitVec w) (s : State) : (memWrite a n v s).host = s.host := rfl
@[simp] theorem memWrite_received {w : Nat} (a n : Nat) (v : BitVec w) (s : State) : (memWrite a n v s).received = s.received := rfl
@[simp] theorem memWrite_freeIdx {w : Nat} (a n : Nat) (v : BitVec w) (s : State) : (memWrite a n v s).freeIdx = s.freeIdx := rfl
@[simp] theorem memWrite_capacity {w : Nat} (a n : Nat) (v : BitVec w) (s : State) : (memWrite a n v s).capacity = s.capacity := rfl

/-! ## hardwareReset -/

@[simp] theorem hardwareReset_inst (s : State) : (hardwareReset s).inst = s.inst := rfl
@[simp] theorem hardwareReset_gen (s : State) : (hardwareReset s).gen = Gen.zero := rfl
@[simp] theorem hardwareReset_buf (s : State) : (hardwareReset s).buf = [] := rfl
@[simp] theorem hardwareReset_cursor (s : State) : (hardwareReset s).cursor = s.capacity := rfl
@[simp] theorem hardwareReset_alloc (s : State) : (hardwareReset s).alloc = false := rfl
@[simp] theorem hardwareReset_fault (s : State) : (hardwareReset s).fault = false := rfl
@[simp] theorem hardwareReset_fcause (s : State) : (hardwareReset s).fcause = 0 := rfl
@[simp] theorem hardwareReset_exmode (s : State) : (hardwareReset s).exmode = .shift := rfl
@[simp] theorem hardwareReset_refills (s : State) : (hardwareReset s).refills = 0 := rfl
@[simp] theorem hardwareReset_rsp (s : State) : (hardwareReset s).rsp = none := rfl
@[simp] theorem hardwareReset_host (s : State) : (hardwareReset s).host = s.host := rfl
@[simp] theorem hardwareReset_received (s : State) : (hardwareReset s).received = [] := rfl
@[simp] theorem hardwareReset_freeIdx (s : State) : (hardwareReset s).freeIdx = s.freeIdx := rfl
@[simp] theorem hardwareReset_capacity (s : State) : (hardwareReset s).capacity = s.capacity := rfl

/-! ## writeCfg -/

@[simp] theorem writeCfg_inst (v : Quad) (s : State) : (writeCfg v s).inst = s.inst := rfl
@[simp] theorem writeCfg_gen (v : Quad) (s : State) : (writeCfg v s).gen = s.gen := rfl
@[simp] theorem writeCfg_buf (v : Quad) (s : State) : (writeCfg v s).buf = s.buf := rfl
@[simp] theorem writeCfg_cursor (v : Quad) (s : State) : (writeCfg v s).cursor = s.cursor := rfl
@[simp] theorem writeCfg_alloc (v : Quad) (s : State) : (writeCfg v s).alloc = s.alloc := rfl
@[simp] theorem writeCfg_fault (v : Quad) (s : State) : (writeCfg v s).fault = s.fault := rfl
@[simp] theorem writeCfg_fcause (v : Quad) (s : State) : (writeCfg v s).fcause = s.fcause := rfl
@[simp] theorem writeCfg_exmode (v : Quad) (s : State) : (writeCfg v s).exmode = exModeOfBit (v.getLsbD 0) := rfl
@[simp] theorem writeCfg_refills (v : Quad) (s : State) : (writeCfg v s).refills = s.refills := rfl
@[simp] theorem writeCfg_rsp (v : Quad) (s : State) : (writeCfg v s).rsp = s.rsp := rfl
@[simp] theorem writeCfg_host (v : Quad) (s : State) : (writeCfg v s).host = s.host := rfl
@[simp] theorem writeCfg_received (v : Quad) (s : State) : (writeCfg v s).received = s.received := rfl
@[simp] theorem writeCfg_freeIdx (v : Quad) (s : State) : (writeCfg v s).freeIdx = s.freeIdx := rfl
@[simp] theorem writeCfg_capacity (v : Quad) (s : State) : (writeCfg v s).capacity = s.capacity := rfl

/-! ## construct -/

@[simp] theorem construct_inst (seed : Vec) (s : State) : (construct seed s).inst = s.inst := rfl
@[simp] theorem construct_gen (seed : Vec) (s : State) : (construct seed s).gen = warmUp (seedLoad s.inst.phi (seedWord seed)) := rfl
@[simp] theorem construct_buf (seed : Vec) (s : State) : (construct seed s).buf = s.buf := rfl
@[simp] theorem construct_cursor (seed : Vec) (s : State) : (construct seed s).cursor = s.capacity := rfl
@[simp] theorem construct_alloc (seed : Vec) (s : State) : (construct seed s).alloc = true := rfl
@[simp] theorem construct_fault (seed : Vec) (s : State) : (construct seed s).fault = s.fault := rfl
@[simp] theorem construct_fcause (seed : Vec) (s : State) : (construct seed s).fcause = s.fcause := rfl
@[simp] theorem construct_exmode (seed : Vec) (s : State) : (construct seed s).exmode = s.exmode := rfl
@[simp] theorem construct_refills (seed : Vec) (s : State) : (construct seed s).refills = 0 := rfl
@[simp] theorem construct_rsp (seed : Vec) (s : State) : (construct seed s).rsp = s.rsp := rfl
@[simp] theorem construct_host (seed : Vec) (s : State) : (construct seed s).host = s.host := rfl
@[simp] theorem construct_received (seed : Vec) (s : State) : (construct seed s).received = s.received := rfl
@[simp] theorem construct_freeIdx (seed : Vec) (s : State) : (construct seed s).freeIdx = s.freeIdx := rfl
@[simp] theorem construct_capacity (seed : Vec) (s : State) : (construct seed s).capacity = s.capacity := rfl

/-! ## release -/

@[simp] theorem release_inst (s : State) : (release s).inst = s.inst := rfl
@[simp] theorem release_gen (s : State) : (release s).gen = freeGen s.freeIdx := rfl
@[simp] theorem release_buf (s : State) : (release s).buf = [] := rfl
@[simp] theorem release_cursor (s : State) : (release s).cursor = s.cursor := rfl
@[simp] theorem release_alloc (s : State) : (release s).alloc = false := rfl
@[simp] theorem release_fault (s : State) : (release s).fault = s.fault := rfl
@[simp] theorem release_fcause (s : State) : (release s).fcause = s.fcause := rfl
@[simp] theorem release_exmode (s : State) : (release s).exmode = s.exmode := rfl
@[simp] theorem release_refills (s : State) : (release s).refills = s.refills := rfl
@[simp] theorem release_rsp (s : State) : (release s).rsp = s.rsp := rfl
@[simp] theorem release_host (s : State) : (release s).host = s.host := rfl
@[simp] theorem release_received (s : State) : (release s).received = s.received := rfl
@[simp] theorem release_freeIdx (s : State) : (release s).freeIdx = s.freeIdx + 9 := rfl
@[simp] theorem release_capacity (s : State) : (release s).capacity = s.capacity := rfl

/-! ## refill -/

@[simp] theorem refill_inst (s : State) : (refill s).inst = s.inst := rfl
@[simp] theorem refill_gen (s : State) : (refill s).gen = iter roundFn (refillRounds s) s.gen := rfl
@[simp] theorem refill_buf (s : State) : (refill s).buf = s.buf.writeRun 0 (streamBytes (refillRounds s) s.gen) := rfl
@[simp] theorem refill_cursor (s : State) : (refill s).cursor = 0 := rfl
@[simp] theorem refill_alloc (s : State) : (refill s).alloc = s.alloc := rfl
@[simp] theorem refill_fault (s : State) : (refill s).fault = s.fault := rfl
@[simp] theorem refill_fcause (s : State) : (refill s).fcause = s.fcause := rfl
@[simp] theorem refill_exmode (s : State) : (refill s).exmode = s.exmode := rfl
@[simp] theorem refill_refills (s : State) : (refill s).refills = s.refills + 1 := rfl
@[simp] theorem refill_rsp (s : State) : (refill s).rsp = s.rsp := rfl
@[simp] theorem refill_host (s : State) : (refill s).host = s.host := rfl
@[simp] theorem refill_received (s : State) : (refill s).received = s.received := rfl
@[simp] theorem refill_freeIdx (s : State) : (refill s).freeIdx = s.freeIdx := rfl
@[simp] theorem refill_capacity (s : State) : (refill s).capacity = s.capacity := rfl

/-! ## tookResponse -/

@[simp] theorem tookResponse_inst (r : Response) (s : State) : (tookResponse r s).inst = s.inst := rfl
@[simp] theorem tookResponse_gen (r : Response) (s : State) : (tookResponse r s).gen = s.gen := rfl
@[simp] theorem tookResponse_buf (r : Response) (s : State) : (tookResponse r s).buf = s.buf := rfl
@[simp] theorem tookResponse_cursor (r : Response) (s : State) : (tookResponse r s).cursor = s.cursor := rfl
@[simp] theorem tookResponse_alloc (r : Response) (s : State) : (tookResponse r s).alloc = s.alloc := rfl
@[simp] theorem tookResponse_fault (r : Response) (s : State) : (tookResponse r s).fault = s.fault := rfl
@[simp] theorem tookResponse_fcause (r : Response) (s : State) : (tookResponse r s).fcause = s.fcause := rfl
@[simp] theorem tookResponse_exmode (r : Response) (s : State) : (tookResponse r s).exmode = s.exmode := rfl
@[simp] theorem tookResponse_refills (r : Response) (s : State) : (tookResponse r s).refills = s.refills := rfl
@[simp] theorem tookResponse_rsp (r : Response) (s : State) : (tookResponse r s).rsp = none := rfl
@[simp] theorem tookResponse_host (r : Response) (s : State) : (tookResponse r s).host = s.host := rfl
@[simp] theorem tookResponse_received (r : Response) (s : State) : (tookResponse r s).received = s.received ++ [r] := rfl
@[simp] theorem tookResponse_freeIdx (r : Response) (s : State) : (tookResponse r s).freeIdx = s.freeIdx := rfl
@[simp] theorem tookResponse_capacity (r : Response) (s : State) : (tookResponse r s).capacity = s.capacity := rfl

/-! ## Reset -/

@[simp] theorem resetOf_inst (c : Config) : (State.resetOf c).inst = c := rfl
@[simp] theorem resetOf_gen (c : Config) : (State.resetOf c).gen = Gen.zero := rfl
@[simp] theorem resetOf_buf (c : Config) : (State.resetOf c).buf = [] := rfl
@[simp] theorem resetOf_cursor (c : Config) : (State.resetOf c).cursor = c.capacity := rfl
@[simp] theorem resetOf_alloc (c : Config) : (State.resetOf c).alloc = false := rfl
@[simp] theorem resetOf_fault (c : Config) : (State.resetOf c).fault = false := rfl
@[simp] theorem resetOf_fcause (c : Config) : (State.resetOf c).fcause = 0 := rfl
@[simp] theorem resetOf_exmode (c : Config) : (State.resetOf c).exmode = .shift := rfl
@[simp] theorem resetOf_refills (c : Config) : (State.resetOf c).refills = 0 := rfl
@[simp] theorem resetOf_rsp (c : Config) : (State.resetOf c).rsp = none := rfl
@[simp] theorem resetOf_host (c : Config) : (State.resetOf c).host = [] := rfl
@[simp] theorem resetOf_received (c : Config) : (State.resetOf c).received = [] := rfl
@[simp] theorem resetOf_freeIdx (c : Config) : (State.resetOf c).freeIdx = 0 := rfl
@[simp] theorem resetOf_capacity (c : Config) : (State.resetOf c).capacity = c.capacity := rfl

end Sys2Proof.Machine
end

