-- ==== Sys2Proof/Laws/Ops.lean ====
section
/-! SUPPORT. One lemma for each shared operation that says everything it can answer, for the proofs to cite instead of
unfolding the operation. -/

namespace Sys2Proof.Machine

/-! ## The prologue and its parts -/

theorem outcome_next_inj {s t : State} : (Host.Outcome.next s : Outcome) = .next t ↔ s = t :=
  ⟨fun h => by injection h, fun h => h ▸ rfl⟩

theorem raise_next {st : Status} {s t : State} : raise st s = .next t ↔ t = respond st 0 s := by
  rw [raise, outcome_next_inj, eq_comm]

/-- Everything the prologue of a command can answer (R198, checks 1 and 2). -/
theorem prologue_next {lawful : Bool} {s t : State} {body : State → Outcome} :
    prologue lawful s body = .next t ↔
      (s.fault = true ∧ t = respondFault s) ∨
      (s.fault = false ∧ lawful = false ∧ t = respond .illegalCommand 0 s) ∨
      (s.fault = false ∧ lawful = true ∧ body s = .next t) := by
  unfold prologue
  cases hf : s.fault <;> cases hl : lawful <;> simp [raise, eq_comm]

theorem prologue_faulted {lawful : Bool} {s : State} (h : s.fault = true) (body : State → Outcome) :
    prologue lawful s body = .next (respondFault s) := by
  simp [prologue, h]

theorem prologue_lawful {s : State} (h : s.fault = false) (body : State → Outcome) :
    prologue true s body = body s := by
  simp [prologue, h]

theorem prologue_unlawful {s : State} (h : s.fault = false) (body : State → Outcome) :
    prologue false s body = .next (respond .illegalCommand 0 s) := by
  simp [prologue, h, raise]

/-- Everything check 3 can answer for a 512-bit command (R193). -/
theorem needsV512_next {s t : State} {body : State → Outcome} :
    needsV512 s body = .next t ↔
      (s.inst.hasV512 = false ∧ t = respond .unsupportedOperation 0 s) ∨
      (s.inst.hasV512 = true ∧ body s = .next t) := by
  unfold needsV512
  cases h : s.inst.hasV512 <;> simp [raise, eq_comm]

/-- A fault taken outside the FAULTED state: FAULT and FCAUSE written, the fault response given, nothing else (R196). -/
theorem takeFault_fresh {c : Cause} {s : State} (h : s.fault = false) :
    takeFault c s = .next { s with fault := true, fcause := c.code, rsp := some ⟨.fault, zext512 c.code⟩ } := by
  simp [takeFault, h, respondFault, respond]

/-- A fault taken in the FAULTED state keeps the first cause (R197). -/
theorem takeFault_faulted {c : Cause} {s : State} (h : s.fault = true) :
    takeFault c s = .next (respondFault s) := by
  simp [takeFault, h]

/-- Everything check 6 can answer for a command that touches the stream. -/
theorem needsAlloc_next {s t : State} {body : State → Outcome} :
    needsAlloc s body = .next t ↔
      (s.alloc = false ∧ takeFault .useNotAllocated s = .next t) ∨ (s.alloc = true ∧ body s = .next t) := by
  unfold needsAlloc
  cases h : s.alloc <;> simp

/-! ## Reads of the buffer -/

/-- What a read of the buffer returns: the value whose little-endian image stands there, inside the buffer. -/
theorem memRead_ok {addr n : Nat} {s : State} {v : BitVec (8 * n)} :
    memRead addr n s = .ok v ↔
      addr + n ≤ s.capacity ∧ ∀ i, i < n → s.buf.read (addr + i) = some (v.extractLsb' (8 * i) 8) := by
  unfold memRead
  rw [← Memory.readLE_eq_some_iff]
  by_cases h : s.capacity < addr + n
  · simp only [if_pos h]
    constructor
    · intro h'; cases h'
    · intro h'; omega
  · simp only [if_neg h]
    cases s.buf.readLE addr n with
    | none => simp
    | some w => simp [show addr + n ≤ s.capacity by omega]

/-- The refill test: either enough bytes are left and nothing changes, or the buffer is refilled (R131). -/
theorem ensureRoom_cases (n : Nat) (s : State) :
    (s.cursor + n ≤ s.capacity ∧ ensureRoom n s = s) ∨ (s.capacity < s.cursor + n ∧ ensureRoom n s = refill s) := by
  unfold ensureRoom
  split
  · exact .inr ⟨‹_›, rfl⟩
  · exact .inl ⟨by omega, rfl⟩

/-- What ReadNext returns: the value of a read at the cursor after the refill test, and the state with the cursor moved
past it. -/
theorem readNext_ok {n : Nat} {s u : State} {v : BitVec (8 * n)} :
    readNext n s = .ok (v, u) ↔
      memRead (ensureRoom n s).cursor n (ensureRoom n s) = .ok v ∧
        u = { ensureRoom n s with cursor := (ensureRoom n s).cursor + n } := by
  unfold readNext
  cases h : memRead (ensureRoom n s).cursor n (ensureRoom n s) with
  | error f => simp
  | ok w =>
    simp only [Except.ok.injEq, Prod.mk.injEq]
    exact ⟨fun ⟨h1, h2⟩ => ⟨h1, h2.symm⟩, fun ⟨h1, h2⟩ => ⟨h1, h2.symm⟩⟩

/-- Everything a draw can answer with a next state. -/
theorem draw_next {n : Nat} {s t : State} {result : BitVec (8 * n) → Data} :
    draw n s result = .next t ↔
      (s.alloc = false ∧ takeFault .useNotAllocated s = .next t) ∨
      (s.alloc = true ∧ ∃ v u, readNext n s = .ok (v, u) ∧ t = respond .ok (result v) u) := by
  unfold draw
  rw [needsAlloc_next]
  refine or_congr_right (and_congr_right fun _ => ?_)
  cases h : readNext n s with
  | error f => simp
  | ok p =>
    obtain ⟨v, u⟩ := p
    simp [eq_comm]

/-! ## Repetition and the stream -/

@[simp] theorem iter_zero {α : Type} (f : α → α) (x : α) : iter f 0 x = x := rfl

theorem iter_succ {α : Type} (f : α → α) (n : Nat) (x : α) : iter f (n + 1) x = iter f n (f x) := rfl

theorem iter_succ_outer {α : Type} (f : α → α) (n : Nat) (x : α) : iter f (n + 1) x = f (iter f n x) := by
  induction n generalizing x with
  | zero => rfl
  | succ n ih => rw [iter_succ, ih, iter_succ]

theorem iter_add {α : Type} (f : α → α) (m n : Nat) (x : α) : iter f (m + n) x = iter f n (iter f m x) := by
  induction m generalizing x with
  | zero => simp
  | succ m ih => rw [Nat.succ_add, iter_succ, ih, iter_succ]

@[simp] theorem length_chunkOf (o : Bank) : (chunkOf o).length = 128 := by simp [chunkOf]

@[simp] theorem length_streamBytes (n : Nat) (g : Gen) : (streamBytes n g).length = 128 * n := by
  induction n generalizing g with
  | zero => rfl
  | succ n ih => simp only [streamBytes, List.length_append, length_chunkOf, ih]; omega

/-- Byte `j` of chunk `m` of the stream is byte `j` of the chunk that the state after `m` rounds emits (R124). -/
theorem getElem?_streamBytes {n m j : Nat} (g : Gen) (hm : m < n) (hj : j < 128) :
    (streamBytes n g)[128 * m + j]? = (chunkOf (iter roundFn m g).o)[j]? := by
  induction n generalizing m g with
  | zero => omega
  | succ n ih =>
    rw [streamBytes]
    cases m with
    | zero => rw [List.getElem?_append_left (by simp; omega)]; simp
    | succ m =>
      rw [List.getElem?_append_right (by simp; omega), length_chunkOf, iter_succ,
        show 128 * (m + 1) + j - 128 = 128 * m + j by omega]
      exact ih _ (by omega)

theorem refillRounds_mul {s : State} (h : s.inst.wf = true) : 128 * refillRounds s = s.capacity := by
  simp only [Config.wf, Bool.and_eq_true, decide_eq_true_eq] at h
  obtain ⟨k, hk⟩ : ∃ k, s.inst.capLog2 = 7 + k := ⟨s.inst.capLog2 - 7, by omega⟩
  simp only [refillRounds, State.capacity, Config.capacity, chunkBytes, hk, Nat.pow_add]
  omega

theorem capacity_ge {s : State} (h : s.inst.wf = true) : 128 ≤ s.capacity := by
  have := refillRounds_mul h
  have hpos : 0 < s.capacity := Nat.two_pow_pos _
  omega

/-- After a refill every offset below CAPACITY reads as the stream's byte there; other offsets read as before. -/
theorem read_refill {s : State} (h : s.inst.wf = true) (a : Nat) :
    (refill s).buf.read a =
      if a < s.capacity then (streamBytes (refillRounds s) s.gen)[a]? else s.buf.read a := by
  rw [refill_buf, Memory.read_writeRun, length_streamBytes, refillRounds_mul h]
  simp

/-- The `n + 1` chunks of the stream are the first `n` and one more. -/
theorem streamBytes_succ_outer (n : Nat) (g : Gen) :
    streamBytes (n + 1) g = streamBytes n g ++ chunkOf (iter roundFn n g).o := by
  induction n generalizing g with
  | zero => simp [streamBytes]
  | succ n ih => rw [streamBytes, ih, streamBytes, iter_succ, List.append_assoc]

/-- The four vector writes of a round are one run of 128 bytes (R111). -/
theorem emitAt_eq (dst : Nat) (s : State) : emitAt dst s = { s with buf := s.buf.writeRun dst (chunkOf s.gen.o) } := by
  have h1 := Memory.writeRun_writeRun s.buf dst (bytesOf s.gen.o.v0 32) (bytesOf s.gen.o.v1 32)
  have h2 := Memory.writeRun_writeRun s.buf dst (bytesOf s.gen.o.v0 32 ++ bytesOf s.gen.o.v1 32) (bytesOf s.gen.o.v2 32)
  have h3 := Memory.writeRun_writeRun s.buf dst
    (bytesOf s.gen.o.v0 32 ++ bytesOf s.gen.o.v1 32 ++ bytesOf s.gen.o.v2 32) (bytesOf s.gen.o.v3 32)
  simp only [List.length_append, length_bytesOf] at h1 h2 h3
  simp only [emitAt, memWrite]
  rw [h1, h2, h3, chunkOf, List.append_assoc, List.append_assoc]

end Sys2Proof.Machine
end

