-- ==== Sys2Proof/Laws/Exec.lean ====
section
/-! SUPPORT. What `exec` is for each command, as one equation over the shared operations, and once and for all
everything that an executed command can leave behind. -/

namespace Sys2Proof.Machine

/-! ## One equation per command -/

section
variable (s : State)

theorem exec_capq :
    exec .capq s = prologue true s fun s => .next (respond .ok (zext512 (capValue s.inst)) s) := rfl

theorem exec_init (len : BitVec 8) (seed : Vec) :
    exec (.init len seed) s = prologue true s fun s =>
      if s.inst.hasV256 then
        if len = seedBytes then
          if s.alloc then raise .resourceError s else .next (respond .ok 0 (construct seed s))
        else raise .invalidArgument s
      else raise .unsupportedOperation s := rfl

theorem exec_dispose :
    exec .dispose s = prologue true s fun s =>
      if s.alloc then .next (respond .ok 0 (release s)) else takeFault .disposeNotAllocated s := rfl

theorem exec_ensure (n : BitVec 8) :
    exec (.ensure n) s = prologue (ensureSizeOk n) s fun s =>
      needsAlloc s fun s => .next (respond .ok 0 (ensureRoom n.toNat s)) := rfl

theorem exec_nextraw : exec .nextraw s = prologue true s fun s => draw 8 s zext512 := rfl

theorem exec_read256 : exec .read256 s = prologue true s fun s => draw 32 s zext512 := rfl

theorem exec_read512 :
    exec .read512 s = prologue true s fun s => needsV512 s fun s => draw 64 s zext512 := rfl

theorem exec_next : exec .next s = prologue true s fun s => draw 8 s fun v => zext512 (topHalf v) := rfl

theorem exec_nextdouble :
    exec .nextdouble s = prologue true s fun s => draw 8 s fun v => zext512 (extD s.exmode v) := rfl

theorem exec_nextfloat :
    exec .nextfloat s = prologue true s fun s => draw 8 s fun v => zext512 (extF s.exmode v) := rfl

theorem exec_nextdoubles256 :
    exec .nextdoubles256 s = prologue true s fun s => draw 32 s fun v => zext512 (extD256 s.exmode v) := rfl

theorem exec_nextdoubles512 :
    exec .nextdoubles512 s = prologue true s fun s =>
      needsV512 s fun s => draw 64 s fun v => zext512 (extD512 s.exmode v) := rfl

theorem exec_cvtd (v : Quad) :
    exec (.cvtd v) s = prologue true s fun s => .next (respond .ok (zext512 (extD s.exmode v)) s) := rfl

theorem exec_cvtf (v : Quad) :
    exec (.cvtf v) s = prologue true s fun s => .next (respond .ok (zext512 (extF s.exmode v)) s) := rfl

theorem exec_rdreg (r : BitVec 8) :
    exec (.rdreg r) s = prologue (rdregNumberOk r) s fun s =>
      match regRead r s with
      | some v => .next (respond .ok (zext512 v) s)
      | none => raise .illegalCommand s := rfl

theorem exec_wrreg (r : BitVec 8) (v : Quad) :
    exec (.wrreg r v) s = prologue (wrregNumberOk r && wrregValueOk v) s fun s =>
      .next (respond .ok 0 (writeCfg v s)) := rfl

end

/-! ## Everything an executed command can leave behind -/

/-- The nine ways in which a command `i` at `s` ends with the next state `t`. -/
inductive Answered (i : Instr) (s t : State) : Prop
  /-- The FAULTED state answers (R197). -/
  | sticky (hf : s.fault = true) (ht : t = respondFault s)
  /-- A reported condition (R190). -/
  | condition (hf : s.fault = false) (st : Status) (hst : st.isCondition = true) (ht : t = respond st 0 s)
  /-- Misuse enters the FAULTED state (R196). -/
  | misuse (hf : s.fault = false) (ha : s.alloc = false) (c : Cause) (hi : touchesStream i = true ∨ i = .dispose)
      (ht : t = { s with fault := true, fcause := c.code, rsp := some ⟨.fault, zext512 c.code⟩ })
  /-- A command that writes nothing (R90, R163, R164, R180). -/
  | reading (hf : s.fault = false) (hi : writesNothing i = true) (d : Data) (ht : t = respond .ok d s)
  /-- A write of CFG (R181). -/
  | wroteCfg (hf : s.fault = false) (v : Quad) (hi : i = .wrreg 2 v) (ht : t = respond .ok 0 (writeCfg v s))
  /-- A construction (R91). -/
  | constructed (hf : s.fault = false) (ha : s.alloc = false) (hv : s.inst.hasV256 = true) (seed : Vec)
      (hi : i = .init 32 seed) (ht : t = respond .ok 0 (construct seed s))
  /-- A disposal (R94). -/
  | released (hf : s.fault = false) (ha : s.alloc = true) (hi : i = .dispose) (ht : t = respond .ok 0 (release s))
  /-- A successful ENSURE (R132). -/
  | ensured (hf : s.fault = false) (ha : s.alloc = true) (n : BitVec 8) (hn : ensureSizeOk n = true)
      (hi : i = .ensure n) (ht : t = respond .ok 0 (ensureRoom n.toNat s))
  /-- A successful draw (R131). -/
  | drew (hf : s.fault = false) (ha : s.alloc = true) (n : Nat) (hn : n = 8 ∨ n = 32 ∨ n = 64)
      (hi : touchesStream i = true) (hb : bytesNeeded i = n) (v : BitVec (8 * n)) (u : State) (d : Data)
      (hr : readNext n s = .ok (v, u)) (ht : t = respond .ok d u)

theorem answered_of_draw {i : Instr} {s t : State} {n : Nat} {result : BitVec (8 * n) → Data}
    (hn : n = 8 ∨ n = 32 ∨ n = 64) (hi : touchesStream i = true) (hb : bytesNeeded i = n) (hf : s.fault = false)
    (h : draw n s result = .next t) : Answered i s t := by
  rcases draw_next.1 h with ⟨ha, h⟩ | ⟨ha, v, u, hr, ht⟩
  · rw [takeFault_fresh hf, outcome_next_inj] at h
    exact .misuse hf ha _ (.inl hi) h.symm
  · exact .drew hf ha n hn hi hb v u _ hr ht

theorem wrregNumberOk_iff {r : BitVec 8} : wrregNumberOk r = true ↔ r = 2 := by simp [wrregNumberOk]

/-- Every next state of `exec` is one of the nine. -/
theorem answered_of_exec {i : Instr} {s t : State} (h : exec i s = .next t) : Answered i s t := by
  have key : ∀ {lawful : Bool} {body : State → Outcome}, prologue lawful s body = .next t →
      (s.fault = false → lawful = true → body s = .next t → Answered i s t) → Answered i s t := by
    intro lawful body h k
    rcases prologue_next.1 h with ⟨hf, ht⟩ | ⟨hf, -, ht⟩ | ⟨hf, hl, hb⟩
    · exact .sticky hf ht
    · exact .condition hf _ rfl ht
    · exact k hf hl hb
  have wide : ∀ {n : Nat} {result : State → BitVec (8 * n) → Data}, n = 8 ∨ n = 32 ∨ n = 64 →
      touchesStream i = true → bytesNeeded i = n → s.fault = false →
      (needsV512 s fun s => draw n s (result s)) = .next t → Answered i s t := by
    intro n result hn hi hb hf h
    rcases needsV512_next.1 h with ⟨-, ht⟩ | ⟨-, h⟩
    · exact .condition hf _ rfl ht
    · exact answered_of_draw hn hi hb hf h
  cases i with
  | capq =>
    rw [exec_capq] at h
    exact key h fun hf _ hb => .reading hf rfl _ (outcome_next_inj.1 hb).symm
  | init len seed =>
    rw [exec_init] at h
    refine key h fun hf _ hb => ?_
    split at hb
    · split at hb
      · split at hb
        · exact .condition hf _ rfl (raise_next.1 hb)
        · rename_i hv hl ha
          exact .constructed hf (by simpa using ha) hv seed (by rw [hl]; rfl) (outcome_next_inj.1 hb).symm
      · exact .condition hf _ rfl (raise_next.1 hb)
    · exact .condition hf _ rfl (raise_next.1 hb)
  | dispose =>
    rw [exec_dispose] at h
    refine key h fun hf _ hb => ?_
    split at hb
    · exact .released hf ‹_› rfl (outcome_next_inj.1 hb).symm
    · rename_i ha
      rw [takeFault_fresh hf, outcome_next_inj] at hb
      exact .misuse hf (by simpa using ha) _ (.inr rfl) hb.symm
  | ensure n =>
    rw [exec_ensure] at h
    refine key h fun hf hl hb => ?_
    rcases needsAlloc_next.1 hb with ⟨ha, hb⟩ | ⟨ha, hb⟩
    · rw [takeFault_fresh hf, outcome_next_inj] at hb
      exact .misuse hf ha _ (.inl rfl) hb.symm
    · exact .ensured hf ha n hl rfl (outcome_next_inj.1 hb).symm
  | nextraw =>
    rw [exec_nextraw] at h
    exact key h fun hf _ hb => answered_of_draw (n := 8) (.inl rfl) rfl rfl hf hb
  | read256 =>
    rw [exec_read256] at h
    exact key h fun hf _ hb => answered_of_draw (n := 32) (.inr (.inl rfl)) rfl rfl hf hb
  | read512 =>
    rw [exec_read512] at h
    exact key h fun hf _ hb => wide (n := 64) (result := fun _ v => zext512 v) (.inr (.inr rfl)) rfl rfl hf hb
  | next =>
    rw [exec_next] at h
    exact key h fun hf _ hb => answered_of_draw (n := 8) (.inl rfl) rfl rfl hf hb
  | nextdouble =>
    rw [exec_nextdouble] at h
    exact key h fun hf _ hb => answered_of_draw (n := 8) (.inl rfl) rfl rfl hf hb
  | nextfloat =>
    rw [exec_nextfloat] at h
    exact key h fun hf _ hb => answered_of_draw (n := 8) (.inl rfl) rfl rfl hf hb
  | nextdoubles256 =>
    rw [exec_nextdoubles256] at h
    exact key h fun hf _ hb => answered_of_draw (n := 32) (.inr (.inl rfl)) rfl rfl hf hb
  | nextdoubles512 =>
    rw [exec_nextdoubles512] at h
    exact key h fun hf _ hb => wide (n := 64) (result := fun s v => zext512 (extD512 s.exmode v)) (.inr (.inr rfl)) rfl rfl hf hb
  | cvtd v =>
    rw [exec_cvtd] at h
    exact key h fun hf _ hb => .reading hf rfl _ (outcome_next_inj.1 hb).symm
  | cvtf v =>
    rw [exec_cvtf] at h
    exact key h fun hf _ hb => .reading hf rfl _ (outcome_next_inj.1 hb).symm
  | rdreg r =>
    rw [exec_rdreg] at h
    refine key h fun hf _ hb => ?_
    split at hb
    · exact .reading hf rfl _ (outcome_next_inj.1 hb).symm
    · exact .condition hf _ rfl (raise_next.1 hb)
  | wrreg r v =>
    rw [exec_wrreg] at h
    refine key h fun hf hl hb => ?_
    rw [Bool.and_eq_true, wrregNumberOk_iff] at hl
    exact .wroteCfg hf v (by rw [hl.1]) (outcome_next_inj.1 hb).symm

end Sys2Proof.Machine
end

