-- ==== Sys2Proof/Laws/Lanes.lean ====
section
/-! SUPPORT. What a vector made of its elements reads as, element by element (00_scope.md R7). -/

namespace Sys2Proof.Machine

theorem getLsbD_quad {w : Nat} (v : BitVec w) {k j : Nat} (hj : j < 64) :
    (quad v k).getLsbD j = v.getLsbD (64 * k + j) := by
  simp [quad, hj]

theorem getLsbD_dword (v : Vec) {k j : Nat} (hj : j < 32) : (dword v k).getLsbD j = v.getLsbD (32 * k + j) := by
  simp [dword, hj]

/-- The quads of a vector made of quads are those quads. -/
@[simp] theorem quad_ofQuads (a b c d : Quad) :
    quad (ofQuads a b c d) 0 = a ∧ quad (ofQuads a b c d) 1 = b ∧
    quad (ofQuads a b c d) 2 = c ∧ quad (ofQuads a b c d) 3 = d := by
  refine ⟨?_, ?_, ?_, ?_⟩ <;>
    (refine BitVec.eq_of_getLsbD_eq fun j hj => ?_
     rw [getLsbD_quad _ hj]
     simp only [ofQuads, BitVec.getLsbD_append]
     grind)

/-- The dwords of a vector made of dwords are those dwords. -/
theorem dword_ofDwords (d0 d1 d2 d3 d4 d5 d6 d7 : Dword) (j : Fin 8) :
    dword (ofDwords d0 d1 d2 d3 d4 d5 d6 d7) j = (#v[d0, d1, d2, d3, d4, d5, d6, d7] : Vector Dword 8)[j] := by
  refine BitVec.eq_of_getLsbD_eq fun i hi => ?_
  rw [getLsbD_dword _ hi]
  fin_cases j <;>
    (simp only [ofDwords, BitVec.getLsbD_append]
     simp
     grind)

end Sys2Proof.Machine
end

