-- ==== Sys2Proof/Laws/PerInstr.lean ====
section
/-! SUPPORT. Laws stated per command: family TableRow, that the encoded word of every command is selected by the mask and
match of its own row of opcode_table.json (30_encoding.md R75). -/

namespace Sys2Proof.Laws.TableRow

/-- The mask of the command's row: all bits in format Z, all but ARG in format A (R75, opcode_table.json). -/
def mask : Instr → BitVec 32
  | .capq => 0xFFFFFFFF
  | .init _ _ => 0xFFFF00FF
  | .dispose => 0xFFFFFFFF
  | .ensure _ => 0xFFFF00FF
  | .nextraw => 0xFFFFFFFF
  | .read256 => 0xFFFFFFFF
  | .read512 => 0xFFFFFFFF
  | .next => 0xFFFFFFFF
  | .nextdouble => 0xFFFFFFFF
  | .nextfloat => 0xFFFFFFFF
  | .nextdoubles256 => 0xFFFFFFFF
  | .nextdoubles512 => 0xFFFFFFFF
  | .cvtd _ => 0xFFFFFFFF
  | .cvtf _ => 0xFFFFFFFF
  | .rdreg _ => 0xFFFF00FF
  | .wrreg _ _ => 0xFFFF00FF

/-- The match value of the command's row (opcode_table.json). -/
def matchValue : Instr → BitVec 32
  | .capq => 0x00000001
  | .init _ _ => 0x00000002
  | .dispose => 0x00000003
  | .ensure _ => 0x00000010
  | .nextraw => 0x00000011
  | .read256 => 0x00000012
  | .read512 => 0x00000013
  | .next => 0x00000020
  | .nextdouble => 0x00000021
  | .nextfloat => 0x00000022
  | .nextdoubles256 => 0x00000023
  | .nextdoubles512 => 0x00000024
  | .cvtd _ => 0x00000028
  | .cvtf _ => 0x00000029
  | .rdreg _ => 0x00000030
  | .wrreg _ _ => 0x00000031

/-- `W & mask = match` (R75). -/
def Statement (i : Instr) : Prop := (encode i).word &&& mask i = matchValue i

/-- A format A word keeps OPC and RSV under the mask, whatever ARG is. -/
theorem formatA_masked (opc : BitVec 8) :
    ∀ arg : BitVec 8, (0#16 ++ arg ++ opc) &&& 0xFFFF00FF#32 = 0#24 ++ opc := by
  intro arg
  ext j hj
  rw [BitVec.getElem_and, BitVec.getElem_append, BitVec.getElem_append]
  have mask_bits : ∀ k : Fin 32, (0xFFFF00FF#32).getLsbD k = decide (k.1 < 8 ∨ 16 ≤ k.1) := by decide
  have hm := mask_bits ⟨j, hj⟩
  rw [BitVec.getLsbD_eq_getElem hj] at hm
  rw [hm]
  by_cases h8 : j < 8
  · simp [h8]
  · by_cases h16 : 16 ≤ j
    · have hz : (0#16 ++ arg)[j - 8] = false := by
        rw [BitVec.getElem_append]; simp [show ¬ j - 8 < 8 by omega]
      simp [h8, hz]
    · simp [h8, h16]

/-- In format Z the whole word is OPC (R72). -/
theorem formatZ_masked (opc : BitVec 8) : (0#16 ++ 0#8 ++ opc) &&& 0xFFFFFFFF#32 = 0#24 ++ opc := by
  rw [show 0xFFFFFFFF#32 = BitVec.allOnes 32 from rfl, BitVec.and_allOnes]
  ext j hj
  rw [BitVec.getElem_append, BitVec.getElem_append]
  by_cases h8 : j < 8
  · simp [h8]
  · simp [h8]

theorem capq : Statement .capq := formatZ_masked _
theorem init (len : BitVec 8) (seed : Vec) : Statement (.init len seed) := formatA_masked 0x02 len
theorem dispose : Statement .dispose := formatZ_masked _
theorem ensure (n : BitVec 8) : Statement (.ensure n) := formatA_masked 0x10 n
theorem nextraw : Statement .nextraw := formatZ_masked _
theorem read256 : Statement .read256 := formatZ_masked _
theorem read512 : Statement .read512 := formatZ_masked _
theorem next : Statement .next := formatZ_masked _
theorem nextdouble : Statement .nextdouble := formatZ_masked _
theorem nextfloat : Statement .nextfloat := formatZ_masked _
theorem nextdoubles256 : Statement .nextdoubles256 := formatZ_masked _
theorem nextdoubles512 : Statement .nextdoubles512 := formatZ_masked _
theorem cvtd (v : Quad) : Statement (.cvtd v) := formatZ_masked 0x28
theorem cvtf (v : Quad) : Statement (.cvtf v) := formatZ_masked 0x29
theorem rdreg (r : BitVec 8) : Statement (.rdreg r) := formatA_masked 0x30 r
theorem wrreg (r : BitVec 8) (v : Quad) : Statement (.wrreg r v) := formatA_masked 0x31 r

end Sys2Proof.Laws.TableRow
end

