-- ==== Sys2Proof/Laws/Step.lean ====
section
/-! SUPPORT. Everything a step and a presented command can leave behind, and what the shared operations do to the
invariant; for the proofs to cite instead of unfolding the step. -/

namespace Sys2Proof.Machine

/-! ## The step -/

/-- Everything a step can do when it answers a next state. -/
theorem step_next {s t : State} (h : step s = .next t) :
    (s.host = [] ∧ t = s) ∨
    (∃ c rest, s.host = .issue c :: rest ∧ s.rsp = none ∧ transact c { s with host := rest } = .next t) ∨
    (∃ rest r, s.host = .take :: rest ∧ s.rsp = some r ∧ t = tookResponse r { s with host := rest }) ∨
    (∃ rest, s.host = .reset :: rest ∧ t = hardwareReset { s with host := rest }) := by
  unfold step at h
  split at h
  · exact .inl ⟨‹_›, (outcome_next_inj.1 h).symm⟩
  · rename_i c rest hh
    unfold hostIssue at h
    split at h
    · exact .inr (.inl ⟨c, rest, hh, ‹_›, h⟩)
    · cases h
  · rename_i rest hh
    unfold hostTake at h
    split at h
    · exact .inr (.inr (.inl ⟨rest, _, hh, ‹_›, (outcome_next_inj.1 h).symm⟩))
    · cases h
  · exact .inr (.inr (.inr ⟨_, ‹_›, (outcome_next_inj.1 h).symm⟩))

/-- Everything a presented command can be answered with: a decoded command by `exec`, any other word by the prologue. -/
theorem transact_next {c : Command} {s t : State} (h : transact c s = .next t) :
    (∃ i, decode c = .ok i ∧ exec i s = .next t) ∨
    ((∃ e, decode c = .error e) ∧ s.fault = true ∧ t = respondFault s) ∨
    ((∃ e, decode c = .error e) ∧ s.fault = false ∧ t = respond .illegalCommand 0 s) := by
  unfold transact at h
  split at h
  · exact .inl ⟨_, ‹_›, h⟩
  · rename_i e he
    rcases prologue_next.1 h with ⟨hf, ht⟩ | ⟨hf, -, ht⟩ | ⟨-, hl, -⟩
    · exact .inr (.inl ⟨⟨e, he⟩, hf, ht⟩)
    · exact .inr (.inr ⟨⟨e, he⟩, hf, ht⟩)
    · cases hl

/-! ## The buffer operations and the invariant -/

theorem EngineInv.respond {s : State} (h : EngineInv s) (st : Status) (d : Data) :
    EngineInv (Machine.respond st d s) :=
  { h with }

theorem EngineInv.refill {s : State} (h : EngineInv s) : EngineInv (Machine.refill s) where
  instance_ok := h.instance_ok
  buffer_canonical := Memory.wf_writeRun h.buffer_canonical _ _
  buffer_in_range := fun c hc => by
    rcases Memory.mem_writeRun hc with hc | ⟨-, hc⟩
    · exact h.buffer_in_range c hc
    · rw [length_streamBytes, refillRounds_mul h.instance_ok] at hc; simpa using hc
  cursor_le := Nat.zero_le _
  cursor_aligned := rfl
  window := fun _ _ => ⟨s.gen, rfl, fun a ha => by
    rw [read_refill h.instance_ok, if_pos (show a < s.capacity from ha)]; rfl⟩
  faulted_free := h.faulted_free
  cause_zero := h.cause_zero
  cause_code := h.cause_code

theorem EngineInv.ensureRoom {s : State} (h : EngineInv s) (n : Nat) : EngineInv (Machine.ensureRoom n s) := by
  rcases ensureRoom_cases n s with ⟨-, e⟩ | ⟨-, e⟩ <;> rw [e]
  exacts [h, h.refill]

/-- After the refill test there is room for a draw. -/
theorem EngineInv.room {s : State} (h : EngineInv s) {n : Nat} (hn : n ≤ 128) :
    (Machine.ensureRoom n s).cursor + n ≤ s.capacity := by
  rcases ensureRoom_cases n s with ⟨hr, e⟩ | ⟨-, e⟩ <;> rw [e]
  · exact hr
  · have := capacity_ge h.instance_ok
    simp only [refill_cursor]
    omega

/-- What the refill test leaves alone. -/
theorem ensureRoom_frame (n : Nat) (s : State) :
    (ensureRoom n s).inst = s.inst ∧ (ensureRoom n s).alloc = s.alloc ∧ (ensureRoom n s).fault = s.fault ∧
    (ensureRoom n s).fcause = s.fcause ∧ (ensureRoom n s).exmode = s.exmode ∧ (ensureRoom n s).rsp = s.rsp ∧
    (ensureRoom n s).host = s.host ∧ (ensureRoom n s).received = s.received ∧
    (ensureRoom n s).freeIdx = s.freeIdx := by
  rcases ensureRoom_cases n s with ⟨-, e⟩ | ⟨-, e⟩ <;> rw [e] <;> simp

/-- With a generator allocated, a draw reads bytes that the last refill wrote. -/
theorem EngineInv.readable {s : State} (h : EngineInv s) (ha : s.alloc = true) {n : Nat} (h0 : 0 < n) (hn : n ≤ 128) :
    ∃ v, memRead (Machine.ensureRoom n s).cursor n (Machine.ensureRoom n s) = .ok v := by
  have hi := h.ensureRoom n
  have hroom := h.room hn
  obtain ⟨hinst, halloc, -⟩ := ensureRoom_frame n s
  have hcap : (Machine.ensureRoom n s).capacity = s.capacity := by rw [State.capacity, hinst]; rfl
  obtain ⟨g, -, hw⟩ := hi.window (halloc.trans ha) (by omega)
  obtain ⟨v, hv⟩ := Option.isSome_iff_exists.1 <|
    Memory.readLE_isSome (m := (Machine.ensureRoom n s).buf) (a := (Machine.ensureRoom n s).cursor) (n := n)
      fun i hin => by
        rw [hw _ (by omega), List.getElem?_eq_getElem
          (by rw [length_streamBytes, refillRounds_mul hi.instance_ok]; omega)]
        rfl
  exact ⟨v, memRead_ok.2 ⟨by omega, (Memory.readLE_eq_some_iff _ _ _ _).1 hv⟩⟩

/-! ## Runs of commands -/

/-- A run of commands starts with its first one, when that is answered OK. -/
theorem runCommands_cons {i : Instr} {is : List Instr} {s t : State} {d : Data} (h : exec i s = .next t)
    (hr : t.rsp = some ⟨.ok, d⟩) :
    runCommands (i :: is) s = (runCommands is t).map fun p => (d :: p.1, p.2) := by
  simp only [runCommands, h, hr]
  cases runCommands is t <;> rfl

/-- A command repeated is a run of copies of it. -/
theorem repeatCommand_eq_runCommands (i : Instr) (n : Nat) (s : State) :
    repeatCommand i n s = runCommands (List.replicate n i) s := by
  induction n generalizing s with
  | zero => rfl
  | succ n ih => simp only [repeatCommand, List.replicate_succ, runCommands, ih]

end Sys2Proof.Machine
end

