-- ==== Sys2Proof/Tests/Slice0.lean ====
section
/-! SUPPORT. The model's own tests. The expected values come from 95_test_vectors.md (the vector is named at each test)
or, for encodings, from words written out by hand from 30_encoding.md R71 and R75. -/

namespace Sys2Proof.Tests

open Sys2Proof Sys2Proof.Machine

set_option maxRecDepth 100000
set_option Elab.async false

/-! ## Small states -/

/-- The smallest instance: one chunk. -/
def small : Config := { Config.default with capLog2 := 7 }

/-- The FREE state. -/
def free : State := State.resetOf small

/-- The READY state that INIT with the zero seed leaves. -/
def ready : State := construct 0 free

/-- A READY state whose buffer has just been refilled. -/
def filled : State := refill ready

/-- The FAULTED state that a draw in the FREE state leaves. -/
def faulted : State := { free with fault := true, fcause := 1 }

/-- The FREE state of an instance without the 512-bit path. -/
def narrow : State := State.resetOf { small with hasV512 := false }

/-- The FREE state of an instance without the 256-bit datapath. -/
def scalarOnly : State := State.resetOf { small with hasV256 := false }

/-- The status code and data of the response that an answer leaves on the port. -/
def answer (o : Outcome) : Option (Nat × Nat) :=
  match o with
  | .next t => t.rsp.map fun r => (r.status.code.toNat, r.data.toNat)
  | _ => none

/-- The state that an answer leaves. -/
def after (o : Outcome) : State :=
  match o with
  | .next t => t
  | _ => State.reset

/-- The answer is a next state. -/
def isNext (o : Outcome) : Bool :=
  match o with
  | .next _ => true
  | _ => false

/-! ## Well-formedness: one ill-formed command for each check (R76) -/

theorem test_wf_refuses_ensure_size : Instr.wf (.ensure 16) = false := by decide
theorem test_wf_refuses_rdreg_number : Instr.wf (.rdreg 5) = false := by decide
theorem test_wf_refuses_wrreg_number : Instr.wf (.wrreg 3 0) = false := by decide
theorem test_wf_refuses_wrreg_reserved_bits : Instr.wf (.wrreg 2 2) = false := by decide
theorem test_wf_refuses_wrreg_top_bit : Instr.wf (.wrreg 2 0x8000000000000001) = false := by decide
theorem test_wf_accepts_operands :
    Instr.wf (.ensure 8) = true ∧ Instr.wf (.ensure 32) = true ∧ Instr.wf (.ensure 64) = true ∧
    Instr.wf (.rdreg 4) = true ∧ Instr.wf (.wrreg 2 1) = true ∧ Instr.wf (.init 31 0) = true := by decide

/-! ## Decoding: the word of every command, RSV ARG OPC written out from R71 and R75 -/

theorem test_decode_capq : decode ⟨0b0000000000000000_00000000_00000001#32, 0⟩ = .ok .capq := by decide
theorem test_decode_init : decode ⟨0b0000000000000000_00100000_00000010#32, 7⟩ = .ok (.init 32 7) := by decide
theorem test_decode_init_31 : decode ⟨0b0000000000000000_00011111_00000010#32, 7⟩ = .ok (.init 31 7) := by decide
theorem test_decode_dispose : decode ⟨0b0000000000000000_00000000_00000011#32, 0⟩ = .ok .dispose := by decide
theorem test_decode_ensure : decode ⟨0b0000000000000000_01000000_00010000#32, 0⟩ = .ok (.ensure 64) := by decide
theorem test_decode_nextraw : decode ⟨0b0000000000000000_00000000_00010001#32, 0⟩ = .ok .nextraw := by decide
theorem test_decode_read256 : decode ⟨0b0000000000000000_00000000_00010010#32, 0⟩ = .ok .read256 := by decide
theorem test_decode_read512 : decode ⟨0b0000000000000000_00000000_00010011#32, 0⟩ = .ok .read512 := by decide
theorem test_decode_next : decode ⟨0b0000000000000000_00000000_00100000#32, 0⟩ = .ok .next := by decide
theorem test_decode_nextdouble : decode ⟨0b0000000000000000_00000000_00100001#32, 0⟩ = .ok .nextdouble := by decide
theorem test_decode_nextfloat : decode ⟨0b0000000000000000_00000000_00100010#32, 0⟩ = .ok .nextfloat := by decide
theorem test_decode_nextdoubles256 :
    decode ⟨0b0000000000000000_00000000_00100011#32, 0⟩ = .ok .nextdoubles256 := by decide
theorem test_decode_nextdoubles512 :
    decode ⟨0b0000000000000000_00000000_00100100#32, 0⟩ = .ok .nextdoubles512 := by decide
/-- The payload operand is `PL[63:0]`; the bits above do not matter (R73). -/
theorem test_decode_cvtd :
    decode ⟨0b0000000000000000_00000000_00101000#32, 0xF_0000000000000009#256⟩ = .ok (.cvtd 9) := by decide
theorem test_decode_cvtf :
    decode ⟨0b0000000000000000_00000000_00101001#32, 0xF_8000000000000000#256⟩ = .ok (.cvtf 0x8000000000000000) := by
  decide
theorem test_decode_rdreg : decode ⟨0b0000000000000000_00000011_00110000#32, 0⟩ = .ok (.rdreg 3) := by decide
theorem test_decode_wrreg : decode ⟨0b0000000000000000_00000010_00110001#32, 1⟩ = .ok (.wrreg 2 1) := by decide

/-- P4 steps 9 to 11 and 15: the reserved opcode, ARG set in format Z, RSV set, opcode 0. -/
theorem test_decode_rejects_by_name :
    decode ⟨0x00000025#32, 0⟩ = .error .unassignedOpcode ∧ decode ⟨0x00000000#32, 0⟩ = .error .unassignedOpcode ∧
    decode ⟨0x00000111#32, 0⟩ = .error .argumentNotZero ∧ decode ⟨0x00010011#32, 0⟩ = .error .reservedBits := by decide

/-- The host's numbering: the command word in bits 31:0, the payload above it (log entry 14). -/
theorem test_decodeTableWord :
    decodeTableWord 288 (0x231 + 2 ^ 32) = some (.wrreg 2 1) ∧ decodeTableWord 32 0x111 = none := by decide

/-! ## The round and the warm-up -/

/-- V-ROUND-1, round 2: separates the gather from the scatter reading. -/
theorem test_round_gathers :
    (roundFn ⟨⟨0, 0, 0, 0⟩, ⟨0, 0, 0, 0⟩, incVec⟩).s.v1 =
      ofQuads 0x0000000300000000 0x0000000100000000 0x0000000700000000 0x0000000500000000 := by decide +kernel

/-- V-ROUND-2. -/
theorem test_round_pattern :
    let g : Gen := roundFn ⟨
      ⟨ofQuads 0xA1000001A0000000 0xA3000003A2000002 0xA5000005A4000004 0xA7000007A6000006,
       ofQuads 0xB1000011B0000010 0xB3000013B2000012 0xB5000015B4000014 0xB7000017B6000016,
       ofQuads 0xC1000021C0000020 0xC3000023C2000022 0xC5000025C4000024 0xC7000027C6000026,
       ofQuads 0xD1000031D0000030 0xD3000033D2000032 0xD5000035D4000034 0xD7000037D6000036⟩,
      ⟨0, 0, 0, 0⟩, ofQuads 0x100 0x200 0x300 0x400⟩
    g.s.v3 = ofQuads 0xEE20033B0D000059 0xF060043D4F40007B 0xEAA001379180009D 0xECE00239CBC000B7 ∧
    g.o.v1 = ofQuads 0xB480032433000023 0xB780042734000024 0xB280012235000025 0xB180022132000022 ∧
    g.o.v2 = ofQuads 0x18A0033C7800005C 0x01E0043F37400073 0x1E200132E280009E 0x1B600231BDC000B1 := by decide +kernel

/-! ## One step of each command -/

/-- V-SYS-1: CAP of the defaults; V-BUF and P3: the CAPLOG2 field of a smaller instance follows CAPACITY. -/
theorem test_capq : answer (exec .capq State.reset) = some (0, 0x1103) := by decide +kernel

/-- V-INIT-1: `O0` and `S0` after INIT. -/
theorem test_init_vectors :
    ready.gen.o.v0 = ofQuads 0x53AAB40FF9965D95 0xE2097C3AE6822D09 0x395A5AA7A5A4A52C 0x2BCEE75D12B468DC ∧
    ready.gen.s.v0 = ofQuads 0xC6F25D98F15EC762 0x85D6DA352E3D6DD5 0x26E0B74DB776C13A 0xF103A68B34CE2D51 := by
  decide +kernel

/-- P4 steps 2, 3 and 7. -/
theorem test_init_conditions :
    answer (exec (.init 31 0) free) = some (1, 0) ∧ answer (exec (.init 33 0) free) = some (1, 0) ∧
    answer (exec (.init 32 5) ready) = some (3, 0) := by decide +kernel

/-- P4 steps 21 and 22. -/
theorem test_dispose :
    answer (exec .dispose ready) = some (0, 0) ∧ answer (exec .dispose free) = some (15, 2) := by decide +kernel

/-- V-BUF: ENSURE on an empty buffer refills and does not advance; on a full one it does nothing. -/
theorem test_ensure :
    (after (exec (.ensure 8) ready)).cursor = 0 ∧ (after (exec (.ensure 8) ready)).refills = 1 ∧
    (after (exec (.ensure 64) filled)).refills = 1 := by decide +kernel

/-- P4 step 12. -/
theorem test_ensure_illegal : answer (exec (.ensure 16) ready) = some (4, 0) := by decide +kernel

/-- P1 step 3, on a one-chunk buffer: `w0`, CURSOR 8, REFILLS 1. -/
theorem test_nextraw :
    answer (exec .nextraw ready) = some (0, 0x53AAB40FF9965D95) ∧
    (after (exec .nextraw ready)).cursor = 8 ∧ (after (exec .nextraw ready)).refills = 1 := by decide +kernel

/-- V-INIT-1: the last word of the chunk and the first of the next (`w15`, `w16`). -/
theorem test_nextraw_wraps :
    answer (exec .nextraw { filled with cursor := 120 }) = some (0, 0xF103A68B34CE2D51) ∧
    answer (exec .nextraw { filled with cursor := 128 }) = some (0, 0x718C03CB7F7AA20E) := by decide +kernel

/-- V-INIT-1: words `w1 .. w4`, at an offset that is not a multiple of 32. -/
theorem test_read256 :
    answer (exec .read256 { filled with cursor := 8 }) =
      some (0, 0x42CCD98BF5FE6E6B_2BCEE75D12B468DC_395A5AA7A5A4A52C_E2097C3AE6822D09) := by decide +kernel

/-- V-INIT-1: words `w0 .. w7`. -/
theorem test_read512 :
    answer (exec .read512 filled) =
      some (0, 0xEEE5F736A30DDB6F_1BCCEF385D62F058_B918FD814E74DD12_42CCD98BF5FE6E6B_2BCEE75D12B468DC_395A5AA7A5A4A52C_E2097C3AE6822D09_53AAB40FF9965D95) := by
  decide +kernel

/-- P1 step 7: `w4[63:32]`; V-EXT-1: the word `w1` is negative and is not sign-extended into DATA. -/
theorem test_next :
    answer (exec .next { filled with cursor := 32 }) = some (0, 0x42CCD98B) ∧
    answer (exec .next { filled with cursor := 8 }) = some (0, 0xE2097C3A) := by decide +kernel

/-- P1 step 5 and P5 step 7: both forms. -/
theorem test_nextdouble :
    answer (exec .nextdouble { filled with cursor := 16 }) = some (0, 0x3FCCAD2D53D2D250) ∧
    answer (exec .nextdouble { filled with exmode := .mask }) = some (0, 0x3FD5681FF32CBB2A) := by decide +kernel

/-- P1 step 6 and P5 step 8: both forms. -/
theorem test_nextfloat :
    answer (exec .nextfloat { filled with cursor := 24 }) = some (0, 0x3E2F3B9C) ∧
    answer (exec .nextfloat { filled with cursor := 8, exmode := .mask }) = some (0, 0x3F022D09) := by decide +kernel

/-- V-EXT-1, the doubles of `w0 .. w3`, element 0 lowest. -/
theorem test_nextdoubles256 :
    answer (exec .nextdoubles256 filled) =
      some (0, 0x3FC5E773AE895A34_3FCCAD2D53D2D250_3FEC412F875CD045_3FD4EAAD03FE6596) := by decide +kernel

/-- V-EXT-1, the low five doubles of `w0 .. w7`, element 4 on top; and R193. -/
theorem test_nextdoubles512 :
    ((answer (exec .nextdoubles512 filled)).map fun r => r.2 % 2 ^ 320) =
      some 0x3FD0B33662FD7F9A_3FC5E773AE895A34_3FCCAD2D53D2D250_3FEC412F875CD045_3FD4EAAD03FE6596 ∧
    answer (exec .nextdoubles512 narrow) = some (2, 0) := by decide +kernel

/-- P5 steps 1 and 4, and V-EXT-1 row 0x800. -/
theorem test_cvtd :
    answer (exec (.cvtd 1) free) = some (0, 0) ∧
    answer (exec (.cvtd 1) { free with exmode := .mask }) = some (0, 0x3CA0000000000000) ∧
    answer (exec (.cvtd 0x800) free) = some (0, 0x3CA0000000000000) := by decide +kernel

/-- P5 steps 5 and 13. -/
theorem test_cvtf :
    answer (exec (.cvtf 0xFFFFFF) { free with exmode := .mask }) = some (0, 0x3F7FFFFF) ∧
    answer (exec (.cvtf 0x8000000000000000) free) = some (0, 0x3F000000) := by decide +kernel

/-- V-SYS-1, from reset of the defaults. -/
theorem test_rdreg :
    answer (exec (.rdreg 0) State.reset) = some (0, 0x1103) ∧ answer (exec (.rdreg 1) State.reset) = some (0, 0) ∧
    answer (exec (.rdreg 2) State.reset) = some (0, 0) ∧ answer (exec (.rdreg 3) State.reset) = some (0, 0x20000) ∧
    answer (exec (.rdreg 4) State.reset) = some (0, 0) ∧ answer (exec (.rdreg 5) State.reset) = some (4, 0) := by
  decide +kernel

/-- V-SYS-1. -/
theorem test_wrreg :
    answer (exec (.wrreg 2 1) free) = some (0, 0) ∧ (after (exec (.wrreg 2 1) free)).exmode = .mask ∧
    answer (exec (.wrreg 2 2) free) = some (4, 0) ∧ answer (exec (.wrreg 2 3) free) = some (4, 0) ∧
    answer (exec (.wrreg 3 0) free) = some (4, 0) ∧ answer (exec (.wrreg 0 0) free) = some (4, 0) := by decide +kernel

/-- P4 steps 23 to 25: the first cause is kept and the fault check precedes legality. -/
theorem test_faulted_answers :
    answer (transact ⟨0x25, 0⟩ faulted) = some (15, 1) ∧ answer (exec .dispose faulted) = some (15, 1) ∧
    answer (exec .nextraw free) = some (15, 1) := by decide +kernel

/-- P1 step 1 as the first step after reset, on the default instance. -/
theorem test_withFetchWord : answer (step (State.reset.withFetchWord 32 0x1)) = some (0, 0x1103) := by decide +kernel

/-! ## Witnesses: for each statement with hypotheses, inputs that meet them all -/

theorem small_wf : small.wf = true := by decide

theorem free_inv : EngineInv free where
  instance_ok := small_wf
  buffer_canonical := rfl
  buffer_in_range := fun _ hc => nomatch hc
  cursor_le := Nat.le_refl _
  cursor_aligned := by decide
  window := nofun
  faulted_free := nofun
  cause_zero := fun _ => rfl
  cause_code := nofun

theorem ready_inv : EngineInv ready where
  instance_ok := small_wf
  buffer_canonical := rfl
  buffer_in_range := fun _ hc => nomatch hc
  cursor_le := Nat.le_refl _
  cursor_aligned := by decide
  window := fun _ h => absurd h (Nat.lt_irrefl _)
  faulted_free := nofun
  cause_zero := fun _ => rfl
  cause_code := nofun

theorem filled_inv : EngineInv filled := ready_inv.refill

theorem test_witness_DecodedCommandDeterminesItsBits :
    decode ⟨0x2002, 5⟩ = .ok (.init 32 5) ∧ decode ⟨0x28, 5⟩ = .ok (.cvtd 5) ∧ decode ⟨0x29, 5⟩ = .ok (.cvtf 5) ∧
    decode ⟨0x231, 1⟩ = .ok (.wrreg 2 1) := by decide

/-- Each clause of R76 at the edge of its range. -/
theorem test_witness_IllegalCommandsAreExactlyTheListedOnes_illegal :
    ∀ c ∈ ([⟨0x00010011, 0⟩, ⟨0x80000011, 0⟩, ⟨0x00000000, 0⟩, ⟨0x00000025, 0⟩, ⟨0x00000111, 0⟩, ⟨0x00008001, 0⟩,
      ⟨0x00000010, 0⟩, ⟨0x00000910, 0⟩, ⟨0x00000530, 0⟩, ⟨0x00000131, 0⟩, ⟨0x00000331, 0⟩, ⟨0x00000231, 2⟩,
      ⟨0x00000231, 0x8000000000000000⟩] : List Command), IsIllegal c := by
  unfold IsIllegal; decide +kernel

/-- A legal command beside each. -/
theorem test_witness_IllegalCommandsAreExactlyTheListedOnes_legal :
    free.fault = false ∧
    ∀ c ∈ ([⟨0x00000011, 0⟩, ⟨0x00000001, 0⟩, ⟨0x00000810, 0⟩, ⟨0x00004010, 0⟩, ⟨0x00000430, 0⟩, ⟨0x00000231, 1⟩,
      ⟨0x00000231, 0x10000000000000000⟩, ⟨0x00001F02, 0⟩] : List Command), ¬ IsIllegal c := by
  unfold IsIllegal; decide +kernel

theorem test_witness_IllegalOperandsChangeNothing :
    free.fault = false ∧ ((0 : BitVec 8) ≠ 8 ∧ (0 : BitVec 8) ≠ 32 ∧ (0 : BitVec 8) ≠ 64) ∧
    4 < (5 : BitVec 8).toNat ∧ 4 < (255 : BitVec 8).toNat ∧ ((3 : BitVec 8) ≠ 2) ∧
    (2 : Quad).extractLsb' 1 63 ≠ 0 := by decide +kernel

/-- A state whose host presents `c` next. -/
def presenting (c : Command) (s : State) : State := { s with host := [.issue c] }

theorem test_witness_StepRunsTheDecodedCommand :
    (presenting ⟨0x1, 0⟩ free).host = .issue ⟨0x1, 0⟩ :: [] ∧ (presenting ⟨0x1, 0⟩ free).rsp = none ∧
    decode ⟨0x1, 0⟩ = .ok .capq := by decide +kernel

theorem test_witness_StepAnswersAnUndecodableWord :
    decode ⟨0x25, 0⟩ = .error .unassignedOpcode ∧ (presenting ⟨0x25, 0⟩ free).rsp = none ∧
    (presenting ⟨0x25, 0⟩ free).fault = false ∧ (presenting ⟨0x25, 0⟩ faulted).rsp = none ∧
    (presenting ⟨0x25, 0⟩ faulted).fault = true := by decide +kernel

theorem test_witness_SecondCommandHasNoTransition :
    ({ presenting ⟨1, 0⟩ free with rsp := some ⟨.ok, 0⟩ } : State).rsp = some ⟨.ok, 0⟩ ∧
    ({ presenting ⟨1, 0⟩ free with rsp := some ⟨.ok, 0⟩ } : State).host = .issue ⟨1, 0⟩ :: [] := by decide +kernel

theorem test_witness_HostTakesTheResponse :
    ({ free with host := [.take], rsp := some ⟨.ok, 0⟩ } : State).host = .take :: [] ∧
    ({ free with host := [.take], rsp := some ⟨.ok, 0⟩ } : State).rsp = some ⟨.ok, 0⟩ ∧ free.host = [] := by
  decide +kernel

theorem test_witness_ResetInputResetsTheEngine :
    ({ faulted with host := [.reset] } : State).host = .reset :: [] := by decide +kernel

theorem test_witness_FaultedStateIsSticky :
    faulted.fault = true ∧ isNext (step faulted) = true ∧ isNext (step (presenting ⟨0x11, 0⟩ faulted)) = true ∧
    isNext (step { faulted with host := [.reset] }) = true := by decide +kernel

/-- A success, two conditions and a fault. -/
theorem test_witness_EveryCommandEndsInOneOfThreeOutcomes :
    (∃ t, transact ⟨0x1, 0⟩ free = .next t) ∧ (∃ t, transact ⟨0x1F02, 0⟩ free = .next t) ∧
    (∃ t, transact ⟨0x25, 0⟩ free = .next t) ∧ ∃ t, transact ⟨0x11, 0⟩ free = .next t :=
  ⟨⟨_, rfl⟩, ⟨_, rfl⟩, ⟨_, rfl⟩, ⟨_, rfl⟩⟩

theorem test_witness_EveryCommandIsAnswered : EngineInv free ∧ EngineInv ready ∧ EngineInv filled :=
  ⟨free_inv, ready_inv, filled_inv⟩

theorem test_witness_MisuseEntersTheFaultedState :
    free.alloc = false ∧ free.fault = false ∧ free.inst.hasV512 = true ∧ Instr.wf (.ensure 8) = true ∧
    touchesStream (.ensure 8) = true ∧ touchesStream .read512 = true ∧ faulted.alloc = false ∧ faulted.fault = true ∧
    narrow.inst.hasV512 = false ∧ Instr.nextraw ≠ .read512 ∧ Instr.nextraw ≠ .nextdoubles512 := by decide +kernel

theorem test_witness_MissingWidePathIsUnsupported : narrow.fault = false ∧ narrow.inst.hasV512 = false := by decide

/-- One transition for each clause: ALLOC rises, ALLOC falls, FAULT rises (both ways), FAULT stays. -/
theorem test_witness_LifecycleHasThreeStates :
    (∃ t, exec (.init 32 0) free = .next t ∧ free.alloc = false ∧ t.alloc = true) ∧
    (∃ t, exec .dispose ready = .next t ∧ ready.alloc = true ∧ t.alloc = false) ∧
    (∃ t, exec .nextraw free = .next t ∧ free.fault = false ∧ t.fault = true) ∧
    (∃ t, exec .dispose free = .next t ∧ free.fault = false ∧ t.fault = true) ∧
    ∃ t, exec .capq faulted = .next t ∧ faulted.fault = true :=
  ⟨⟨_, rfl, rfl, rfl⟩, ⟨_, rfl, rfl, rfl⟩, ⟨_, rfl, rfl, rfl⟩, ⟨_, rfl, rfl, rfl⟩, ⟨_, rfl, rfl⟩⟩

theorem test_witness_RunHasGoneWrongExactlyWhenFaulted :
    goneWrong (presenting ⟨0x11, 0⟩ free) = (presenting ⟨0x11, 0⟩ free).fault ∧
    isNext (step (presenting ⟨0x11, 0⟩ free)) = true := by decide +kernel

/-- The smallest and the largest CAPACITY. -/
theorem test_witness_ResetMeetsTheInvariant :
    small.wf = true ∧ Config.default.wf = true ∧ ({ small with capLog2 := 63 } : Config).wf = true ∧
    ({ small with capLog2 := 6 } : Config).wf = false ∧ ({ small with capLog2 := 64 } : Config).wf = false := by decide

theorem test_witness_StepKeepsTheInvariant :
    EngineInv (presenting ⟨0x11, 0⟩ ready) ∧ isNext (step (presenting ⟨0x11, 0⟩ ready)) = true :=
  ⟨{ ready_inv with }, by decide +kernel⟩

/-- One change for each clause. -/
theorem test_witness_RegistersChangeOnlyByTheirWriters :
    (after (exec (.wrreg 2 1) free)).exmode ≠ free.exmode ∧
    (after (exec .nextraw ready)).cursor ≠ ready.cursor ∧ (after (exec .nextraw ready)).refills ≠ ready.refills ∧
    (after (exec .nextraw ready)).gen ≠ ready.gen ∧ (after (exec .nextraw free)).fcause ≠ free.fcause ∧
    (after (exec .nextraw free)).fault ≠ free.fault ∧ (after (exec (.init 32 0) free)).alloc ≠ free.alloc ∧
    isNext (exec (.init 32 0) free) = true ∧
    isNext (exec (.wrreg 2 1) free) = true ∧ isNext (exec .nextraw ready) = true ∧
    isNext (exec .nextraw free) = true := by decide +kernel

theorem test_witness_BufferIsWrittenOnlyByRefill :
    isNext (exec .nextraw ready) = true ∧ isNext (exec .nextraw filled) = true ∧ Instr.nextraw ≠ .dispose := by
  decide +kernel

/-- The FREE state with other vectors, which the spec leaves unspecified. -/
def freeOther : State := { free with gen := ⟨⟨1, 2, 3, 4⟩, ⟨5, 6, 7, 8⟩, 9⟩ }

theorem test_witness_UnspecifiedValuesAreNeverRead :
    EngineInv (presenting ⟨0x2002, 0⟩ free) ∧ EngineInv (presenting ⟨0x2002, 0⟩ freeOther) ∧
    AgreeOnSpecified (presenting ⟨0x2002, 0⟩ free) (presenting ⟨0x2002, 0⟩ freeOther) ∧
    (∃ s', step (presenting ⟨0x2002, 0⟩ free) = .next s') ∧ free.gen ≠ freeOther.gen :=
  ⟨{ free_inv with }, { free_inv with window := nofun }, ⟨rfl, nofun, nofun⟩, ⟨_, rfl⟩, by decide +kernel⟩

theorem test_witness_CapqReturnsTheCapabilities : free.fault = false ∧ ready.fault = false := by decide +kernel

theorem test_witness_InitConstructsTheGenerator :
    free.fault = false ∧ free.inst.hasV256 = true ∧ free.alloc = false := by decide +kernel

/-- Each condition, at the lengths beside 32. -/
theorem test_witness_InitConditionsComeInOrder :
    scalarOnly.fault = false ∧ scalarOnly.inst.hasV256 = false ∧ free.fault = false ∧ free.inst.hasV256 = true ∧
    (31 : BitVec 8) ≠ 32 ∧ (33 : BitVec 8) ≠ 32 ∧ ready.fault = false ∧ ready.inst.hasV256 = true ∧
    ready.alloc = true := by decide +kernel

theorem test_witness_SeedLoadPairsConstantsWithSeedWords :
    ∃ g, g = seedLoad Config.goldenPhi (seedWord 0) := ⟨_, rfl⟩

theorem test_witness_WarmUpEndsWithReversedOutputs : Gen.zero.ctr = 0 := by decide

theorem test_witness_ConstructionDependsOnPayloadAndPhiAlone :
    free.inst.phi = narrow.inst.phi ∧ free.capacity = narrow.capacity ∧ free.inst ≠ narrow.inst ∧
    (∃ t, exec (.init 32 7) free = .next t ∧ t.rsp = some ⟨.ok, 0⟩) ∧
    ∃ t, exec (.init 32 7) narrow = .next t ∧ t.rsp = some ⟨.ok, 0⟩ :=
  ⟨rfl, rfl, by decide +kernel, ⟨_, rfl, rfl⟩, ⟨_, rfl, rfl⟩⟩

theorem test_witness_DisposeReleasesTheBlock : ready.fault = false ∧ ready.alloc = true := by decide +kernel

/-- The top quad, dword and bit. -/
theorem test_witness_ViewsAliasTheSameBits_and_VectorPrimitivesWorkPerElement : 3 < 4 ∧ 7 < 8 ∧ 255 < 256 := by decide

theorem test_witness_RoundComputesStepsTwoToSix :
    ∃ a1 a3 : Vec, ∀ k, k < 4 → quad a1 k = quad Gen.zero.s.v1 k + quad Gen.zero.ctr k ∧
      quad a3 k = quad Gen.zero.s.v3 k + quad Gen.zero.ctr k :=
  ⟨0, 0, by decide⟩

/-- First and last byte of a vector, and offsets just outside a chunk. -/
theorem test_witness_RoundEmitsTheOldOutputs : 0 < 32 ∧ 31 < 32 ∧ (127 < 128 ∨ 128 + 128 ≤ 127) ∧ (256 < 128 ∨ 128 + 128 ≤ 256) := by
  decide

/-- The only chunk of the smallest buffer, its first and last byte, and the first offset outside. -/
theorem test_witness_RefillIsTheLoopOfRounds :
    ready.inst.wf = true ∧ 0 < ready.capacity / 128 ∧ 0 < 32 ∧ 31 < 32 ∧ ready.capacity ≤ 128 := by decide +kernel

theorem test_witness_RefillFillsTheBufferWithTheStream :
    ready.inst.wf = true ∧ 0 < ready.capacity / 128 ∧ State.reset.inst.wf = true ∧
    1023 < State.reset.capacity / 128 := by decide +kernel

/-- Both sides of the refill test: 8 bytes left and none left. -/
theorem test_witness_EnsureRefillsExactlyWhenShort :
    ready.fault = false ∧ ready.alloc = true ∧ ready.capacity < ready.cursor + (8 : BitVec 8).toNat ∧
    ¬ filled.capacity < ({ filled with cursor := 120 } : State).cursor + (8 : BitVec 8).toNat := by decide +kernel

theorem test_witness_ScalarDrawsReadAtTheCursor :
    EngineInv ready ∧ ready.fault = false ∧ ready.alloc = true ∧ EngineInv filled ∧ filled.fault = false ∧
    filled.alloc = true := ⟨ready_inv, rfl, rfl, filled_inv, rfl, rfl⟩

theorem test_witness_WideDrawsReadAtTheCursor :
    EngineInv filled ∧ filled.fault = false ∧ filled.alloc = true ∧ filled.cursor + 32 ≤ filled.capacity :=
  ⟨filled_inv, rfl, rfl, by decide +kernel⟩

theorem test_witness_WidestDrawsReadAtTheCursor :
    EngineInv filled ∧ filled.fault = false ∧ filled.alloc = true ∧ filled.inst.hasV512 = true :=
  ⟨filled_inv, rfl, rfl, rfl⟩

/-- A draw that refills, one that does not, and one that faults. -/
theorem test_witness_StreamCommandsFrame :
    touchesStream .read256 = true ∧ isNext (exec .read256 ready) = true ∧ isNext (exec .read256 filled) = true ∧
    filled.cursor + bytesNeeded .read256 ≤ filled.capacity ∧ isNext (exec .read256 free) = true := by decide +kernel

/-- CURSOR at its last value that leaves the bytes. -/
theorem test_witness_WideDrawsAreFourScalarDraws :
    EngineInv { filled with cursor := 96 } ∧ ({ filled with cursor := 96 } : State).cursor + 32 ≤ filled.capacity ∧
    filled.fault = false ∧ filled.alloc = true :=
  ⟨{ filled_inv with
      cursor_le := by decide +kernel
      cursor_aligned := by decide
      window := fun ha _ => filled_inv.window ha (by decide +kernel) }, by decide +kernel, rfl, rfl⟩

theorem test_witness_WidestDrawsAreEightScalarDraws :
    EngineInv filled ∧ filled.cursor + 64 ≤ filled.capacity ∧ filled.inst.hasV512 = true ∧ filled.fault = false ∧
    filled.alloc = true := ⟨filled_inv, by decide +kernel, rfl, rfl, rfl⟩

/-- All four draws, and the empty run. -/
theorem test_witness_ScalarDrawsReadTheStreamWhateverTheCapacity :
    EngineInv ready ∧ ready.fault = false ∧ ready.alloc = true ∧ ready.cursor = ready.capacity ∧
    (∀ i ∈ ([.nextraw, .next, .nextdouble, .nextfloat] : List Instr), i ∈ scalarDraws) ∧
    ∀ i ∈ ([] : List Instr), i ∈ scalarDraws :=
  ⟨ready_inv, rfl, rfl, rfl, by decide, nofun⟩

theorem test_witness_ConsumingTheBufferTriggersOneRefill :
    EngineInv free ∧ ∃ t, exec (.init 32 0) free = .next t ∧ t.rsp = some ⟨.ok, 0⟩ := ⟨free_inv, _, rfl, rfl⟩

theorem test_witness_CounterAfterInitAndRefills :
    ∃ t, exec (.init 32 0) free = .next t ∧ t.rsp = some ⟨.ok, 0⟩ := ⟨_, rfl, rfl⟩

theorem test_witness_ConversionsNeedNoGenerator_RdregReturnsEachRegister_WrregWritesTheExtractionForm :
    free.fault = false ∧ ready.fault = false := by decide +kernel

theorem test_witness_ReadingCommandsWriteNothing :
    writesNothing .capq = true ∧ ∃ t, exec .capq free = .next t := ⟨rfl, _, rfl⟩

end Sys2Proof.Tests
end

section
/-! PROOFS. The statements of 00_scope.md: the views of a vector (R7), the vector primitives (R9), the step of a presented
command (R11, R12) and the reset state (R6, R39). -/

namespace Sys2Proof.Machine

/-! ## The element views (R7)

Neighbouring slices of one value join to the slice that spans both; a vector is the slice that spans all of it. -/

/-- A quad is its two dwords, the odd one on top. -/
theorem quad_eq_dword_append_dword (v : Vec) (k : Nat) : quad v k = dword v (2 * k + 1) ++ dword v (2 * k) := by
  have adjacent : 32 * (2 * k + 1) = 32 * (2 * k) + 32 := by omega
  have sameStart : 64 * k = 32 * (2 * k) := by omega
  unfold quad dword
  rw [BitVec.extractLsb'_append_extractLsb'_eq_extractLsb' adjacent, sameStart]

@[simp] theorem ofQuads_quads (v : Vec) : ofQuads (quad v 0) (quad v 1) (quad v 2) (quad v 3) = v := by
  simp only [ofQuads, quad, BitVec.extractLsb'_append_extractLsb'_eq_extractLsb']
  exact BitVec.extractLsb'_eq_self

@[simp] theorem ofDwords_dwords (v : Vec) :
    ofDwords (dword v 0) (dword v 1) (dword v 2) (dword v 3) (dword v 4) (dword v 5) (dword v 6) (dword v 7) = v := by
  simp only [ofDwords, dword, BitVec.extractLsb'_append_extractLsb'_eq_extractLsb']
  exact BitVec.extractLsb'_eq_self

/-- Settles O31: the two views are slices of the same bits, and the slices join to the vector again. -/
theorem viewsAliasTheSameBits : Obligations.ViewsAliasTheSameBits :=
  ⟨fun v k _ => quad_eq_dword_append_dword v k, ofQuads_quads, ofDwords_dwords⟩

/-! ## The vector primitives, element by element (R9) -/

theorem quad_add64x4 (a b : Vec) {k : Nat} (hk : k < 4) : quad (add64x4 a b) k = quad a k + quad b k := by
  unfold add64x4
  interval_cases k <;> simp only [quad_ofQuads]

theorem quad_srl64x4 (a : Vec) (n : Nat) {k : Nat} (hk : k < 4) : quad (srl64x4 a n) k = quad a k >>> n := by
  unfold srl64x4
  interval_cases k <;> simp only [quad_ofQuads]

theorem getLsbD_xor256 (a b : Vec) (j : Nat) : (xor256 a b).getLsbD j = (a.getLsbD j ^^ b.getLsbD j) :=
  BitVec.getLsbD_xor

theorem dword_permute32 (a : Vec) (p : Vector (Fin 8) 8) (j : Fin 8) : dword (permute32 a p) j = dword a p[j] := by
  rw [permute32, dword_ofDwords]
  fin_cases j <;> rfl

/-- Settles O32: each primitive by its own element lemma. -/
theorem vectorPrimitivesWorkPerElement : Obligations.VectorPrimitivesWorkPerElement :=
  ⟨fun a b _ hk => quad_add64x4 a b hk, fun a n _ hk => quad_srl64x4 a n hk,
    fun a b j _ => getLsbD_xor256 a b j, dword_permute32⟩

/-! ## The step of a presented command (R11, R12) -/

/-- With the response port free, the step of an issued command is the engine's answer to it. -/
theorem step_issue {s : State} {c : Command} {rest : List HostAction} (hh : s.host = .issue c :: rest)
    (hr : s.rsp = none) : step s = transact c { s with host := rest } := by
  simp only [step, hh, hostIssue, hr]

/-- A command word that decodes is answered by `exec`. -/
theorem transact_decoded {c : Command} {i : Instr} (hd : decode c = .ok i) (s : State) : transact c s = exec i s := by
  simp only [transact, hd]

/-- Settles O6: the step presents the command, and the command decodes. -/
theorem stepRunsTheDecodedCommand : Obligations.StepRunsTheDecodedCommand := by
  intro s c rest i hh hr hd
  calc step s = transact c { s with host := rest } := step_issue hh hr
    _ = exec i { s with host := rest } := transact_decoded hd _

/-! ## The reset state (R6, R39) -/

/-- CAPACITY after reset with the default parameters is 2^17 (R6). -/
theorem reset_capacity : State.reset.capacity = 131072 := by
  decide

/-- Settles O11: the field laws of `State.resetOf`, and the two default parameters. -/
theorem resetStateHoldsTheSpecsValues : Obligations.ResetStateHoldsTheSpecsValues :=
  ⟨fun c => ⟨resetOf_alloc c, resetOf_fault c, resetOf_fcause c, resetOf_exmode c, resetOf_cursor c,
    resetOf_refills c, resetOf_inst c⟩, reset_capacity, rfl⟩

end Sys2Proof.Machine
end

section
/-! PROOFS. The statements of 10_state.md: the permutations (R33, R120) and the counter (R23), reset (R39, R220) and the
registers that commands read (R30), the invariant that every step keeps (R27, R29, R50, R95, R139), who writes what (R20,
R26, R28, R29), and that what the spec leaves unspecified is never read (R39, R94). -/

namespace Sys2Proof.Machine

/-! ## The permutations are rotations (R33, R120)

Both sides of the statement are compared dword by dword: a rotation by a multiple of 32 moves whole dwords. -/

/-- A vector is determined by its eight dwords. -/
theorem eq_of_dword_eq {a b : Vec} (h : ∀ j, j < 8 → dword a j = dword b j) : a = b := by
  rw [← ofDwords_dwords a, ← ofDwords_dwords b, h 0 (by decide), h 1 (by decide), h 2 (by decide), h 3 (by decide),
    h 4 (by decide), h 5 (by decide), h 6 (by decide), h 7 (by decide)]

/-- A rotation right by `r` dwords brings dword `j + r` (modulo 8) to place `j`. -/
theorem dword_rotateRight (v : Vec) {r j : Nat} (hr : r < 8) (hj : j < 8) :
    dword (v.rotateRight (32 * r)) j = dword v ((j + r) % 8) := by
  refine BitVec.eq_of_getLsbD_eq fun i hi => ?_
  rw [getLsbD_dword _ hi, getLsbD_dword _ hi, BitVec.getLsbD_rotateRight_of_lt (by omega)]
  by_cases h : j + r < 8
  · simp only [show 32 * j + i < 256 - 32 * r by omega, decide_true, cond_true, Nat.mod_eq_of_lt h]
    congr 1; omega
  · simp only [show ¬ 32 * j + i < 256 - 32 * r by omega, show 32 * j + i < 256 by omega, decide_false, decide_true,
      cond_false, Bool.true_and, show (j + r) % 8 = j + r - 8 by omega]
    congr 1; omega

/-- A rotation left is the rotation right by the rest of the width. -/
theorem rotateLeft_eq_rotateRight (v : Vec) {n : Nat} (h0 : 0 < n) (hn : n < 256) :
    v.rotateLeft n = v.rotateRight (256 - n) := by
  rw [BitVec.rotateLeft_def, BitVec.rotateRight_def, Nat.mod_eq_of_lt hn, Nat.mod_eq_of_lt (by omega),
    show 256 - (256 - n) = n by omega, BitVec.or_comm]

/-- Gathering dword `j + r` (modulo 8) into every place `j` is a rotation right by `r` dwords. -/
theorem permute32_eq_rotateRight (v : Vec) {p : Vector (Fin 8) 8} {r : Nat} (hr : r < 8)
    (hp : ∀ j : Fin 8, (p[j] : Nat) = (j + r) % 8) : permute32 v p = v.rotateRight (32 * r) := by
  refine eq_of_dword_eq fun j hj => ?_
  calc dword (permute32 v p) j = dword v (p[(⟨j, hj⟩ : Fin 8)] : Nat) := dword_permute32 v p ⟨j, hj⟩
    _ = dword v ((j + r) % 8) := by rw [hp]
    _ = dword (v.rotateRight (32 * r)) j := (dword_rotateRight v hr hj).symm

theorem permEven_eq : ∀ j : Fin 8, (permEven[j] : Nat) = (j + 5) % 8 := by decide

theorem permOdd_eq : ∀ j : Fin 8, (permOdd[j] : Nat) = (j + 3) % 8 := by decide

theorem permute32_permEven (v : Vec) : permute32 v permEven = v.rotateRight 160 :=
  permute32_eq_rotateRight v (r := 5) (by decide) permEven_eq

theorem permute32_permOdd (v : Vec) : permute32 v permOdd = v.rotateRight 96 :=
  permute32_eq_rotateRight v (r := 3) (by decide) permOdd_eq

/-- Settles O33: the indices by evaluation; the rotations, and from them the dwords. -/
theorem permutationsAreRotations : Obligations.PermutationsAreRotations := by
  refine ⟨fun j => ⟨permEven_eq j, permOdd_eq j⟩, fun v j hj => ⟨?_, ?_⟩, fun v => ?_⟩
  · rw [permute32_permEven]
    exact dword_rotateRight v (r := 5) (by decide) hj
  · rw [permute32_permOdd]
    exact dword_rotateRight v (r := 3) (by decide) hj
  · rw [rotateLeft_eq_rotateRight v (n := 96) (by decide) (by decide),
      rotateLeft_eq_rotateRight v (n := 160) (by decide) (by decide)]
    exact ⟨permute32_permEven v, permute32_permEven v, permute32_permOdd v, permute32_permOdd v⟩

/-! ## The counter (R23, R113)

A round and a step of the warm-up both add `INC` to the counter, whatever they do to the other vectors. -/

theorem quad_incVec : ∀ k : Fin 4, quad incVec k = BitVec.ofNat 64 (#v[7, 5, 3, 1] : Vector Nat 4)[k] := by
  decide

/-- A function that adds `INC` to the counter adds `n` times `INC` when it is applied `n` times. -/
theorem quad_ctr_iter {f : Gen → Gen} (hf : ∀ g, (f g).ctr = add64x4 g.ctr incVec) (n : Nat) (g : Gen) (k : Fin 4) :
    quad (iter f n g).ctr k = quad g.ctr k + BitVec.ofNat 64 (n * (#v[7, 5, 3, 1] : Vector Nat 4)[k]) := by
  induction n generalizing g with
  | zero => simp
  | succ n ih =>
    rw [iter_succ, ih, hf, quad_add64x4 _ _ k.isLt, quad_incVec, BitVec.add_assoc, ← BitVec.ofNat_add, Nat.succ_mul,
      Nat.add_comm]

theorem roundFn_ctr (g : Gen) : (roundFn g).ctr = add64x4 g.ctr incVec := rfl

theorem warmUpStep_ctr (g : Gen) : (warmUpStep g).ctr = add64x4 g.ctr incVec := rfl

/-- Settles O35: a round adds `INC` to the counter. -/
theorem counterAfterRounds : Obligations.CounterAfterRounds :=
  fun g n k => quad_ctr_iter roundFn_ctr n g k

/-- The vectors after `n` refills are those after as many rounds as the refills run. -/
theorem iter_refill_gen (n : Nat) (s : State) :
    (iter refill n s).gen = iter roundFn (n * refillRounds s) s.gen := by
  induction n generalizing s with
  | zero => simp
  | succ n ih =>
    rw [iter_succ, ih, refill_gen, ← iter_add, Nat.succ_mul, Nat.add_comm]
    rfl

/-- An INIT that is answered OK has constructed the generator (R91). -/
theorem init_answeredOk {s t : State} {len : BitVec 8} {seed : Vec} {d : Data} (h : exec (.init len seed) s = .next t)
    (hr : t.rsp = some ⟨.ok, d⟩) : t = respond .ok 0 (construct seed s) := by
  cases answered_of_exec h with
  | sticky hf ht => simp [ht] at hr
  | condition hf st hst ht =>
    obtain ⟨rfl, -⟩ : st = .ok ∧ 0 = d := by simpa [ht] using hr
    cases hst
  | misuse hf ha c hi ht => simp [ht] at hr
  | reading hf hi => cases hi
  | wroteCfg hf v hi => cases hi
  | constructed hf ha hv seed' hi ht => cases hi; exact ht
  | released hf ha hi => cases hi
  | ensured hf ha n hn hi => cases hi
  | drew hf ha n hn hi => cases hi

/-- Settles O49: thirteen steps of the warm-up from a zero counter, then `CAPACITY/128` rounds in each refill. -/
theorem counterAfterInitAndRefills : Obligations.CounterAfterInitAndRefills := by
  intro s t seed n k h hr
  have hgen : t.gen = iter warmUpStep 13 (seedLoad s.inst.phi (seedWord seed)) := by
    rw [init_answeredOk h hr]; rfl
  have hzero : quad (seedLoad s.inst.phi (seedWord seed)).ctr k = 0 := by simp [seedLoad, quad]
  rw [iter_refill_gen, quad_ctr_iter roundFn_ctr, hgen, quad_ctr_iter warmUpStep_ctr, hzero, zero_add,
    ← BitVec.ofNat_add, ← Nat.add_mul]
  rfl

/-! ## The host's other moves (R70, R204, R220) -/

theorem step_idle {s : State} (hh : s.host = []) : step s = .next s := by
  simp only [step, hh]

/-- When the host takes the response that stands on the port, the step is that. -/
theorem step_take {s : State} {r : Response} {rest : List HostAction} (hh : s.host = .take :: rest)
    (hr : s.rsp = some r) : step s = .next (tookResponse r { s with host := rest }) := by
  simp only [step, hh, hostTake, hr]

/-- When the host asserts reset, the step is the reset input. -/
theorem step_reset {s : State} {rest : List HostAction} (hh : s.host = .reset :: rest) :
    step s = .next (hardwareReset { s with host := rest }) := by
  simp only [step, hh]

/-- Settles O10: the field laws of `hardwareReset`. -/
theorem resetInputResetsTheEngine : Obligations.ResetInputResetsTheEngine := by
  intro s rest hh
  exact ⟨_, step_reset hh, hardwareReset_alloc _, hardwareReset_fault _, hardwareReset_fcause _,
    hardwareReset_exmode _, hardwareReset_cursor _, hardwareReset_refills _, hardwareReset_inst _, hardwareReset_host _⟩

/-! ## The registers that commands read (R30, R90, R180) -/

/-- Bit by bit, the DATA that carries the value of CAP (R30). -/
theorem getLsbD_zext512_capValue (c : Config) (i : Nat) :
    (zext512 (capValue c)).getLsbD i =
      if i = 0 then c.hasV256 else if i = 1 then c.hasV512
      else if 8 ≤ i ∧ i < 16 then (BitVec.ofNat 8 c.capLog2).getLsbD (i - 8) else false := by
  simp only [zext512, capValue, BitVec.getLsbD_setWidth, BitVec.getLsbD_append, BitVec.getLsbD_ofBool,
    BitVec.getLsbD_zero]
  grind

/-- Settles O24: CAPQ answers the CAP value, whose bits are known. -/
theorem capqReturnsTheCapabilities : Obligations.CapqReturnsTheCapabilities := by
  intro s hf
  refine ⟨zext512 (capValue s.inst), ?_, getLsbD_zext512_capValue s.inst 0, getLsbD_zext512_capValue s.inst 1,
    ?_, ?_, ?_⟩
  · rw [exec_capq, prologue_lawful hf]
    rfl
  all_goals
    refine BitVec.eq_of_getLsbD_eq fun i hi => ?_
    rw [BitVec.getLsbD_extractLsb', getLsbD_zext512_capValue]
  · simp [show ¬ 8 ≤ 2 + i by omega, show 2 + i ≠ 1 by omega]
  · simp [hi, show 8 + i < 16 by omega, show 8 + i ≠ 1 by omega]
  · simp [show 16 + i ≠ 1 by omega]

/-- RDREG of a register number answers the register's value. -/
theorem exec_rdreg_of_regRead {s : State} {r : BitVec 8} {v : Quad} (hf : s.fault = false)
    (hr : rdregNumberOk r = true) (hv : regRead r s = some v) :
    exec (.rdreg r) s = .next (respond .ok (zext512 v) s) := by
  rw [exec_rdreg, hr, prologue_lawful hf, hv]

theorem zext512_ofBool (b : Bool) : zext512 ((BitVec.ofBool b).setWidth 64) = if b then 1 else 0 := by
  cases b <;> simp [zext512]

theorem zext512_exModeBit (m : ExMode) : zext512 ((exModeBit m).setWidth 64) = if m = .mask then 1 else 0 := by
  cases m <;> simp [zext512, exModeBit]

/-- Settles O55: each register number by `regRead`; ALLOC and EXMODE are single bits. -/
theorem rdregReturnsEachRegister : Obligations.RdregReturnsEachRegister := by
  intro s hf
  rw [← zext512_ofBool, ← zext512_exModeBit]
  exact ⟨exec_rdreg_of_regRead hf rfl rfl, exec_rdreg_of_regRead hf rfl rfl, exec_rdreg_of_regRead hf rfl rfl,
    exec_rdreg_of_regRead hf rfl rfl, exec_rdreg_of_regRead hf rfl rfl⟩

/-! ## The invariant (R27, R29, R39, R50, R95, R139)

Each update that a command or the host makes keeps `EngineInv`; the step is put together from them. -/

/-- CURSOR = CAPACITY meets the alignment of CURSOR. -/
theorem capacity_aligned {s : State} (h : s.inst.wf = true) : s.capacity % 8 = 0 := by
  have := refillRounds_mul h
  omega

/-- The state after reset meets the invariant; neither the host's moves nor the count of free values matter. -/
theorem engineInv_hardwareReset {s : State} (h : s.inst.wf = true) : EngineInv (hardwareReset s) where
  instance_ok := h
  buffer_canonical := rfl
  buffer_in_range := nofun
  cursor_le := Nat.le_refl _
  cursor_aligned := capacity_aligned h
  window := nofun
  faulted_free := nofun
  cause_zero := fun _ => rfl
  cause_code := nofun

/-- Settles O19: the state after reset is what the reset input leaves of it. -/
theorem resetMeetsTheInvariant : Obligations.ResetMeetsTheInvariant :=
  fun c h => engineInv_hardwareReset (s := State.resetOf c) h

theorem EngineInv.withHost {s : State} (h : EngineInv s) (rest : List HostAction) :
    EngineInv { s with host := rest } :=
  { h with }

theorem EngineInv.tookResponse {s : State} (h : EngineInv s) (r : Response) : EngineInv (Machine.tookResponse r s) :=
  { h with }

theorem EngineInv.writeCfg {s : State} (h : EngineInv s) (v : Quad) : EngineInv (Machine.writeCfg v s) :=
  { h with }

/-- Misuse of the FREE engine. -/
theorem EngineInv.misuse {s : State} (h : EngineInv s) (ha : s.alloc = false) (c : Cause) :
    EngineInv { s with fault := true, fcause := c.code } :=
  { h with
    faulted_free := fun _ => ha
    cause_zero := nofun
    cause_code := fun _ => by cases c <;> simp [Cause.code] }

/-- INIT leaves no unread byte, so the buffer need not hold the stream. -/
theorem EngineInv.construct {s : State} (h : EngineInv s) (hf : s.fault = false) (seed : Vec) :
    EngineInv (Machine.construct seed s) :=
  { h with
    cursor_le := Nat.le_refl _
    cursor_aligned := capacity_aligned h.instance_ok
    window := fun _ hc => absurd hc (Nat.lt_irrefl _)
    faulted_free := fun hf' => absurd (hf.symm.trans hf') Bool.false_ne_true }

theorem EngineInv.release {s : State} (h : EngineInv s) : EngineInv (Machine.release s) :=
  { h with
    buffer_canonical := rfl
    buffer_in_range := nofun
    window := nofun
    faulted_free := fun _ => rfl }

/-- Moving CURSOR over unread bytes keeps the window. -/
theorem EngineInv.advance {s : State} (h : EngineInv s) {n : Nat} (h8 : n % 8 = 0) (hn : s.cursor + n ≤ s.capacity) :
    EngineInv { s with cursor := s.cursor + n } :=
  { h with
    cursor_le := hn
    cursor_aligned := by
      have := h.cursor_aligned
      change (s.cursor + n) % 8 = 0
      omega
    window := fun ha hc => h.window ha (Nat.lt_of_le_of_lt (Nat.le_add_right _ _) hc) }

/-- What a draw leaves: enough bytes stood at the cursor, and it moved over them (R131). -/
theorem EngineInv.of_readNext {s u : State} {n : Nat} {v : BitVec (8 * n)} (h : EngineInv s) (h8 : n % 8 = 0)
    (hr : readNext n s = .ok (v, u)) : EngineInv u := by
  obtain ⟨hread, rfl⟩ := readNext_ok.1 hr
  exact (h.ensureRoom n).advance h8 (memRead_ok.1 hread).1

theorem EngineInv.of_exec {i : Instr} {s t : State} (h : EngineInv s) (he : exec i s = .next t) : EngineInv t := by
  cases answered_of_exec he with
  | sticky hf ht => exact ht ▸ h.respond _ _
  | condition hf st hst ht => exact ht ▸ h.respond _ _
  | misuse hf ha c hi ht => exact ht ▸ (h.misuse ha c).respond _ _
  | reading hf hi d ht => exact ht ▸ h.respond _ _
  | wroteCfg hf v hi ht => exact ht ▸ (h.writeCfg v).respond _ _
  | constructed hf ha hv seed hi ht => exact ht ▸ (h.construct hf seed).respond _ _
  | released hf ha hi ht => exact ht ▸ h.release.respond _ _
  | ensured hf ha n hn hi ht => exact ht ▸ (h.ensureRoom _).respond _ _
  | drew hf ha n hn hi hb v u d hr ht => exact ht ▸ (h.of_readNext (by omega) hr).respond _ _

theorem EngineInv.of_transact {c : Command} {s t : State} (h : EngineInv s) (ht : transact c s = .next t) :
    EngineInv t := by
  rcases transact_next ht with ⟨i, -, he⟩ | ⟨-, -, rfl⟩ | ⟨-, -, rfl⟩
  · exact h.of_exec he
  · exact h.respond _ _
  · exact h.respond _ _

/-- Settles O20: the four moves of the host, each by what it does to the invariant. -/
theorem stepKeepsTheInvariant : Obligations.StepKeepsTheInvariant := by
  intro s t h hs
  rcases step_next hs with ⟨-, rfl⟩ | ⟨c, rest, -, -, ht⟩ | ⟨rest, r, -, -, rfl⟩ | ⟨rest, -, rfl⟩
  · exact h
  · exact (h.withHost rest).of_transact ht
  · exact (h.withHost rest).tookResponse r
  · exact engineInv_hardwareReset h.instance_ok

/-! ## Every command is answered (R55, R190, R230) -/

/-- The outcome is a next state: the engine answers. -/
def Answers (o : Outcome) : Prop := ∃ t, o = .next t

theorem answers_next (t : State) : Answers (.next t) := ⟨t, rfl⟩

theorem answers_raise (st : Status) (s : State) : Answers (raise st s) := answers_next _

theorem answers_takeFault (c : Cause) (s : State) : Answers (takeFault c s) := answers_next _

theorem answers_prologue {lawful : Bool} {s : State} {body : State → Outcome} (h : Answers (body s)) :
    Answers (prologue lawful s body) := by
  unfold prologue
  split
  · exact answers_next _
  · split
    · exact h
    · exact answers_raise _ _

theorem answers_needsV512 {s : State} {body : State → Outcome} (h : Answers (body s)) :
    Answers (needsV512 s body) := by
  unfold needsV512
  split
  · exact h
  · exact answers_raise _ _

theorem answers_needsAlloc {s : State} {body : State → Outcome} (h : s.alloc = true → Answers (body s)) :
    Answers (needsAlloc s body) := by
  unfold needsAlloc
  split
  · exact h ‹_›
  · exact answers_takeFault _ _

/-- A draw is answered, since with a generator allocated its bytes are there. -/
theorem EngineInv.answers_draw {s : State} (h : EngineInv s) {n : Nat} (hn : 0 < n ∧ n ≤ 128)
    (result : BitVec (8 * n) → Data) : Answers (draw n s result) := by
  refine answers_needsAlloc fun ha => ?_
  obtain ⟨v, hv⟩ := h.readable ha hn.1 hn.2
  rw [readNext_ok.2 ⟨hv, rfl⟩]
  exact answers_next _

theorem EngineInv.answers_exec {s : State} (h : EngineInv s) (i : Instr) : Answers (exec i s) := by
  cases i with
  | capq => rw [exec_capq]; exact answers_prologue (answers_next _)
  | init len seed =>
    rw [exec_init]
    refine answers_prologue ?_
    split_ifs
    exacts [answers_raise _ _, answers_next _, answers_raise _ _, answers_raise _ _]
  | dispose =>
    rw [exec_dispose]
    refine answers_prologue ?_
    split_ifs
    exacts [answers_next _, answers_takeFault _ _]
  | ensure n => rw [exec_ensure]; exact answers_prologue (answers_needsAlloc fun _ => answers_next _)
  | nextraw => rw [exec_nextraw]; exact answers_prologue (h.answers_draw (by decide) _)
  | read256 => rw [exec_read256]; exact answers_prologue (h.answers_draw (by decide) _)
  | read512 => rw [exec_read512]; exact answers_prologue (answers_needsV512 (h.answers_draw (by decide) _))
  | next => rw [exec_next]; exact answers_prologue (h.answers_draw (by decide) _)
  | nextdouble => rw [exec_nextdouble]; exact answers_prologue (h.answers_draw (by decide) _)
  | nextfloat => rw [exec_nextfloat]; exact answers_prologue (h.answers_draw (by decide) _)
  | nextdoubles256 => rw [exec_nextdoubles256]; exact answers_prologue (h.answers_draw (by decide) _)
  | nextdoubles512 => rw [exec_nextdoubles512]; exact answers_prologue (answers_needsV512 (h.answers_draw (by decide) _))
  | cvtd v => rw [exec_cvtd]; exact answers_prologue (answers_next _)
  | cvtf v => rw [exec_cvtf]; exact answers_prologue (answers_next _)
  | rdreg r =>
    rw [exec_rdreg]
    refine answers_prologue ?_
    split
    exacts [answers_next _, answers_raise _ _]
  | wrreg r v => rw [exec_wrreg]; exact answers_prologue (answers_next _)

theorem EngineInv.answers_transact {s : State} (h : EngineInv s) (c : Command) : Answers (transact c s) := by
  unfold transact
  split
  · exact h.answers_exec _
  · exact answers_prologue (answers_next _)

/-- The refill and the move of CURSOR are all that ReadNext does. -/
theorem readNext_frame {n : Nat} {s u : State} {v : BitVec (8 * n)} (h : readNext n s = .ok (v, u)) :
    u.inst = s.inst ∧ u.alloc = s.alloc ∧ u.fault = s.fault ∧ u.fcause = s.fcause ∧ u.exmode = s.exmode ∧
    u.rsp = s.rsp ∧ u.host = s.host ∧ u.received = s.received ∧ u.freeIdx = s.freeIdx := by
  obtain ⟨-, rfl⟩ := readNext_ok.1 h
  exact ensureRoom_frame n s

/-- An executed command gives a response and leaves the host's side and the parameters alone. -/
theorem exec_frame {i : Instr} {s t : State} (h : exec i s = .next t) :
    (∃ r, t.rsp = some r) ∧ t.host = s.host ∧ t.received = s.received ∧ t.inst = s.inst := by
  cases answered_of_exec h with
  | sticky hf ht => subst ht; exact ⟨⟨_, rfl⟩, rfl, rfl, rfl⟩
  | condition hf st hst ht => subst ht; exact ⟨⟨_, rfl⟩, rfl, rfl, rfl⟩
  | misuse hf ha c hi ht => subst ht; exact ⟨⟨_, rfl⟩, rfl, rfl, rfl⟩
  | reading hf hi d ht => subst ht; exact ⟨⟨_, rfl⟩, rfl, rfl, rfl⟩
  | wroteCfg hf v hi ht => subst ht; exact ⟨⟨_, rfl⟩, rfl, rfl, rfl⟩
  | constructed hf ha hv seed hi ht => subst ht; exact ⟨⟨_, rfl⟩, rfl, rfl, rfl⟩
  | released hf ha hi ht => subst ht; exact ⟨⟨_, rfl⟩, rfl, rfl, rfl⟩
  | ensured hf ha n hn hi ht =>
    obtain ⟨hinst, -, -, -, -, -, hhost, hreceived, -⟩ := ensureRoom_frame n.toNat s
    subst ht; exact ⟨⟨_, rfl⟩, hhost, hreceived, hinst⟩
  | drew hf ha n hn hi hb v u d hr ht =>
    obtain ⟨hinst, -, -, -, -, -, hhost, hreceived, -⟩ := readNext_frame hr
    subst ht; exact ⟨⟨_, rfl⟩, hhost, hreceived, hinst⟩

/-- Settles O14: a next state exists by the invariant; the rest holds of every next state. -/
theorem everyCommandIsAnswered : Obligations.EveryCommandIsAnswered := by
  intro s c h
  obtain ⟨t, ht⟩ := h.answers_transact c
  have frame : (∃ r, t.rsp = some r) ∧ t.host = s.host ∧ t.received = s.received ∧ t.inst = s.inst := by
    rcases transact_next ht with ⟨i, -, he⟩ | ⟨-, -, rfl⟩ | ⟨-, -, rfl⟩
    · exact exec_frame he
    · exact ⟨⟨_, rfl⟩, rfl, rfl, rfl⟩
    · exact ⟨⟨_, rfl⟩, rfl, rfl, rfl⟩
  obtain ⟨⟨r, hr⟩, hframe⟩ := frame
  exact ⟨t, r, ht, hr, hframe⟩

/-! ## Who writes what (R20, R26, R28, R29, R30, R95, R153) -/

/-- Settles O17: of the nine ways to end, only a construction raises ALLOC, only a disposal clears it, and only misuse
of the FREE engine raises FAULT. -/
theorem lifecycleHasThreeStates : Obligations.LifecycleHasThreeStates := by
  intro i s t h
  cases answered_of_exec h with
  | sticky hf ht => subst ht; simp [hf]
  | condition hf st hst ht => subst ht; simp +contextual [hf]
  | misuse hf ha c hi ht => subst ht; simp [hf, ha, hi]
  | reading hf hi d ht => subst ht; simp +contextual [hf]
  | wroteCfg hf v hi ht => subst ht; simp +contextual [hf]
  | constructed hf ha hv seed hi ht => subst ht; simp [hf, ha, hi]
  | released hf ha hi ht => subst ht; simp [hf, ha, hi]
  | ensured hf ha n hn hi ht =>
    obtain ⟨-, halloc, hfault, -⟩ := ensureRoom_frame n.toNat s
    subst ht; simp [hf, ha, halloc, hfault]
  | drew hf ha n hn hi hb v u d hr ht =>
    obtain ⟨-, halloc, hfault, -⟩ := readNext_frame hr
    subst ht; simp [hf, ha, halloc, hfault]

/-- Settles O21: each of the nine ways to end writes what its command may write. -/
theorem registersChangeOnlyByTheirWriters : Obligations.RegistersChangeOnlyByTheirWriters := by
  intro i s t h
  cases answered_of_exec h with
  | sticky hf ht => subst ht; simp
  | condition hf st hst ht => subst ht; simp
  | misuse hf ha c hi ht => subst ht; simp [hi]
  | reading hf hi d ht => subst ht; simp
  | wroteCfg hf v hi ht => subst ht; simp [hi]
  | constructed hf ha hv seed hi ht => subst ht; simp [hi]
  | released hf ha hi ht => subst ht; simp [hi]
  | ensured hf ha n hn hi ht =>
    obtain ⟨hinst, halloc, hfault, hfcause, hexmode, -⟩ := ensureRoom_frame n.toNat s
    subst ht; simp [hi, touchesStream, hinst, halloc, hfault, hfcause, hexmode]
  | drew hf ha n hn hi hb v u d hr ht =>
    obtain ⟨hinst, halloc, hfault, hfcause, hexmode, -⟩ := readNext_frame hr
    subst ht; simp [hi, hinst, halloc, hfault, hfcause, hexmode]

/-- The refill test leaves the buffer and REFILLS, or it has refilled. -/
theorem ensureRoom_buf (n : Nat) (s : State) :
    (ensureRoom n s).buf = s.buf ∨
    ((ensureRoom n s).refills = s.refills + 1 ∧ (ensureRoom n s).buf = (refill s).buf) := by
  rcases ensureRoom_cases n s with ⟨-, e⟩ | ⟨-, e⟩ <;> rw [e]
  · exact .inl rfl
  · exact .inr ⟨rfl, rfl⟩

/-- A command other than DISPOSE leaves the buffer, or it touches the stream and has refilled once. -/
theorem exec_buf {i : Instr} {s t : State} (h : exec i s = .next t) (hi : i ≠ .dispose) :
    t.buf = s.buf ∨ (touchesStream i = true ∧ t.refills = s.refills + 1 ∧ t.buf = (refill s).buf) := by
  cases answered_of_exec h with
  | sticky hf ht => exact .inl (ht ▸ rfl)
  | condition hf st hst ht => exact .inl (ht ▸ rfl)
  | misuse hf ha c hi ht => exact .inl (ht ▸ rfl)
  | reading hf hi d ht => exact .inl (ht ▸ rfl)
  | wroteCfg hf v hi ht => exact .inl (ht ▸ rfl)
  | constructed hf ha hv seed hi ht => exact .inl (ht ▸ rfl)
  | released hf ha hi' ht => exact absurd hi' hi
  | ensured hf ha n hn hi ht =>
    subst hi ht
    exact (ensureRoom_buf n.toNat s).imp_right fun hb => ⟨rfl, hb⟩
  | drew hf ha n hn hi hb v u d hr ht =>
    obtain ⟨-, rfl⟩ := readNext_ok.1 hr
    subst ht
    exact (ensureRoom_buf n s).imp_right fun hb => ⟨hi, hb⟩

/-- Settles O22: equal buffers read alike. -/
theorem bufferIsWrittenOnlyByRefill : Obligations.BufferIsWrittenOnlyByRefill := by
  intro i s t h hi
  rcases exec_buf h hi with hb | ⟨htouch, hrefills, hb⟩
  · exact .inl fun a => by rw [hb]
  · exact .inr ⟨htouch, hrefills, fun a => by rw [hb]⟩

/-! ## What is unspecified is never read (R39, R94, R97)

Two states that agree on what the spec specifies differ in the vectors and the buffer alone. With a generator allocated
the refill test makes them one state; without one nothing reads the vectors or the buffer. -/

section
variable {s t : State} (h : AgreeOnSpecified s t)
include h

/-- The second state is the first with other vectors and another buffer. -/
theorem AgreeOnSpecified.exists_eq : ∃ g b, t = { s with gen := g, buf := b } :=
  ⟨t.gen, t.buf, h.fields.symm⟩

theorem AgreeOnSpecified.fault_eq : t.fault = s.fault := by rw [← h.fields]

theorem AgreeOnSpecified.capacity_eq : t.capacity = s.capacity := by rw [← h.fields]; rfl

theorem AgreeOnSpecified.cursor_eq : t.cursor = s.cursor := by rw [← h.fields]

/-- The registers that RDREG can name are all specified. -/
theorem AgreeOnSpecified.regRead_eq (r : BitVec 8) : regRead r t = regRead r s := by
  obtain ⟨g, b, rfl⟩ := h.exists_eq
  rfl

/-- While a generator is allocated and bytes are unread, everything is specified. -/
theorem AgreeOnSpecified.eq_of_unread (ha : s.alloc = true) (hc : s.cursor < s.capacity) : s = t := by
  rw [← h.fields, ← h.vectors ha, ← h.buffer ha hc]

theorem AgreeOnSpecified.respond (st : Status) (d : Data) :
    AgreeOnSpecified (Machine.respond st d s) (Machine.respond st d t) :=
  ⟨congrArg (Machine.respond st d) h.fields, h.vectors, h.buffer⟩

theorem AgreeOnSpecified.respondFault : AgreeOnSpecified (Machine.respondFault s) (Machine.respondFault t) := by
  obtain ⟨g, b, rfl⟩ := h.exists_eq
  exact h.respond _ _

theorem AgreeOnSpecified.misuse (c : Cause) :
    AgreeOnSpecified { s with fault := true, fcause := c.code } { t with fault := true, fcause := c.code } :=
  ⟨congrArg (fun u => { u with fault := true, fcause := c.code }) h.fields, h.vectors, h.buffer⟩

theorem AgreeOnSpecified.withHost (rest : List HostAction) :
    AgreeOnSpecified { s with host := rest } { t with host := rest } :=
  ⟨congrArg (fun u => { u with host := rest }) h.fields, h.vectors, h.buffer⟩

theorem AgreeOnSpecified.tookResponse (r : Response) :
    AgreeOnSpecified (Machine.tookResponse r s) (Machine.tookResponse r t) :=
  ⟨congrArg (Machine.tookResponse r) h.fields, h.vectors, h.buffer⟩

theorem AgreeOnSpecified.writeCfg (v : Quad) :
    AgreeOnSpecified (Machine.writeCfg v s) (Machine.writeCfg v t) :=
  ⟨congrArg (Machine.writeCfg v) h.fields, h.vectors, h.buffer⟩

/-- INIT makes the same vectors of the same payload and leaves no unread byte (R97). -/
theorem AgreeOnSpecified.construct (seed : Vec) :
    AgreeOnSpecified (Machine.construct seed s) (Machine.construct seed t) := by
  obtain ⟨g, b, rfl⟩ := h.exists_eq
  exact ⟨rfl, fun _ => rfl, fun _ hc => absurd hc (Nat.lt_irrefl _)⟩

theorem AgreeOnSpecified.release : AgreeOnSpecified (Machine.release s) (Machine.release t) := by
  obtain ⟨g, b, rfl⟩ := h.exists_eq
  exact ⟨rfl, nofun, nofun⟩

theorem AgreeOnSpecified.hardwareReset :
    AgreeOnSpecified (Machine.hardwareReset s) (Machine.hardwareReset t) :=
  ⟨congrArg Machine.hardwareReset h.fields, nofun, nofun⟩

/-- A refill overwrites the whole buffer, and nothing is listed outside it. -/
theorem AgreeOnSpecified.refill_buf (hs : EngineInv s) (ht : EngineInv t) (ha : s.alloc = true) :
    (Machine.refill s).buf = (Machine.refill t).buf := by
  refine Memory.eq_of_read_eq hs.refill.buffer_canonical ht.refill.buffer_canonical fun x => ?_
  by_cases hx : x < s.capacity
  · rw [read_refill hs.instance_ok, read_refill ht.instance_ok, if_pos hx, if_pos (h.capacity_eq.symm ▸ hx),
      refillRounds, refillRounds, h.capacity_eq, h.vectors ha]
  · have unlisted {u : State} (hu : EngineInv u) (hc : u.capacity = s.capacity) : (Machine.refill u).buf.read x = none :=
      Memory.read_eq_none_of_forall_ne fun c hmem e => hx (hc ▸ e ▸ hu.refill.buffer_in_range c hmem)
    rw [unlisted hs rfl, unlisted ht h.capacity_eq]

theorem AgreeOnSpecified.refill (hs : EngineInv s) (ht : EngineInv t) :
    AgreeOnSpecified (Machine.refill s) (Machine.refill t) where
  fields := by obtain ⟨g, b, rfl⟩ := h.exists_eq; rfl
  vectors := fun ha => by
    rw [refill_gen, refill_gen, refillRounds, refillRounds, h.capacity_eq, h.vectors ha]
  buffer := fun ha _ => h.refill_buf hs ht ha

/-- With a generator allocated the refill test for at least one byte leaves nothing that could differ. -/
theorem AgreeOnSpecified.ensureRoom_eq (hs : EngineInv s) (ht : EngineInv t) (ha : s.alloc = true) {n : Nat}
    (hn : 0 < n) : Machine.ensureRoom n s = Machine.ensureRoom n t := by
  rcases ensureRoom_cases n s with ⟨hroom, -⟩ | ⟨hshort, hrefill⟩
  · rw [h.eq_of_unread ha (by omega)]
  · have sameRefill : Machine.refill s = Machine.refill t :=
      (h.refill hs ht).eq_of_unread ha (Nat.two_pow_pos s.inst.capLog2)
    rw [hrefill, sameRefill, Machine.ensureRoom, if_pos (by rwa [h.capacity_eq, h.cursor_eq])]

end

theorem toNat_pos_of_ensureSizeOk {n : BitVec 8} (h : ensureSizeOk n = true) : 0 < n.toNat := by
  simp only [ensureSizeOk, Bool.or_eq_true, beq_iff_eq] at h
  rcases h with (rfl | rfl) | rfl <;> decide

/-- Where the first outcome is a next state, the second is one that agrees with it on what the spec specifies. -/
def Follows (o p : Outcome) : Prop :=
  ∀ s', o = .next s' → ∃ t', p = .next t' ∧ AgreeOnSpecified s' t'

theorem follows_rfl (o : Outcome) : Follows o o :=
  fun s' hs => ⟨s', hs, ⟨rfl, fun _ => rfl, fun _ _ => rfl⟩⟩

theorem follows_next {s t : State} (h : AgreeOnSpecified s t) : Follows (.next s) (.next t) := by
  intro s' hs
  obtain rfl := outcome_next_inj.1 hs
  exact ⟨t, rfl, h⟩

theorem follows_ite {c : Prop} [Decidable c] {o o' p p' : Outcome} (ht : c → Follows o p)
    (he : ¬ c → Follows o' p') : Follows (if c then o else o') (if c then p else p') := by
  split
  exacts [ht ‹_›, he ‹_›]

section
variable {s t : State} (h : AgreeOnSpecified s t)
include h

theorem AgreeOnSpecified.follows_respond (st : Status) (d : Data) :
    Follows (.next (Machine.respond st d s)) (.next (Machine.respond st d t)) :=
  follows_next (h.respond st d)

theorem AgreeOnSpecified.follows_raise (st : Status) : Follows (raise st s) (raise st t) :=
  h.follows_respond st 0

theorem AgreeOnSpecified.follows_takeFault (c : Cause) : Follows (takeFault c s) (takeFault c t) := by
  cases hf : s.fault with
  | true =>
    rw [takeFault_faulted hf, takeFault_faulted (h.fault_eq.trans hf)]
    exact follows_next h.respondFault
  | false =>
    rw [takeFault_fresh hf, takeFault_fresh (h.fault_eq.trans hf)]
    exact (h.misuse c).follows_respond _ _

theorem AgreeOnSpecified.follows_prologue {lawful : Bool} {body : State → Outcome}
    (hb : lawful = true → Follows (body s) (body t)) : Follows (prologue lawful s body) (prologue lawful t body) := by
  obtain ⟨g, b, rfl⟩ := h.exists_eq
  exact follows_ite (fun _ => follows_next h.respondFault) fun _ => follows_ite hb fun _ => h.follows_raise _

theorem AgreeOnSpecified.follows_needsV512 {body : State → Outcome} (hb : Follows (body s) (body t)) :
    Follows (needsV512 s body) (needsV512 t body) := by
  obtain ⟨g, b, rfl⟩ := h.exists_eq
  exact follows_ite (fun _ => hb) fun _ => h.follows_raise _

theorem AgreeOnSpecified.follows_needsAlloc {body : State → Outcome}
    (hb : s.alloc = true → Follows (body s) (body t)) : Follows (needsAlloc s body) (needsAlloc t body) := by
  obtain ⟨g, b, rfl⟩ := h.exists_eq
  exact follows_ite hb fun _ => h.follows_takeFault _

variable (hs : EngineInv s) (ht : EngineInv t)
include hs ht

/-- A draw of the two states is a draw of one, since ReadNext begins with the refill test. -/
theorem AgreeOnSpecified.follows_draw {n : Nat} (hn : 0 < n) (result : BitVec (8 * n) → Data) :
    Follows (draw n s result) (draw n t result) := by
  unfold draw
  refine h.follows_needsAlloc fun ha => ?_
  have sameRead : readNext n s = readNext n t := by rw [readNext, readNext, h.ensureRoom_eq hs ht ha hn]
  rw [sameRead]
  exact follows_rfl _

theorem AgreeOnSpecified.follows_exec (i : Instr) : Follows (exec i s) (exec i t) := by
  obtain ⟨g, b, rfl⟩ := h.exists_eq
  cases i with
  | capq => rw [exec_capq, exec_capq]; exact h.follows_prologue fun _ => h.follows_respond _ _
  | init len seed =>
    rw [exec_init, exec_init]
    exact h.follows_prologue fun _ =>
      follows_ite (fun _ => follows_ite (fun _ => follows_ite (fun _ => h.follows_raise _)
        (fun _ => (h.construct seed).follows_respond _ _)) (fun _ => h.follows_raise _)) (fun _ => h.follows_raise _)
  | dispose =>
    rw [exec_dispose, exec_dispose]
    exact h.follows_prologue fun _ =>
      follows_ite (fun _ => h.release.follows_respond _ _) (fun _ => h.follows_takeFault _)
  | ensure n =>
    rw [exec_ensure, exec_ensure]
    refine h.follows_prologue fun hn => h.follows_needsAlloc fun ha => ?_
    rw [h.ensureRoom_eq hs ht ha (toNat_pos_of_ensureSizeOk hn)]
    exact follows_rfl _
  | nextraw =>
    rw [exec_nextraw, exec_nextraw]
    exact h.follows_prologue fun _ => h.follows_draw hs ht (by decide) _
  | read256 =>
    rw [exec_read256, exec_read256]
    exact h.follows_prologue fun _ => h.follows_draw hs ht (by decide) _
  | read512 =>
    rw [exec_read512, exec_read512]
    exact h.follows_prologue fun _ => h.follows_needsV512 (h.follows_draw hs ht (by decide) _)
  | next =>
    rw [exec_next, exec_next]
    exact h.follows_prologue fun _ => h.follows_draw hs ht (by decide) _
  | nextdouble =>
    rw [exec_nextdouble, exec_nextdouble]
    exact h.follows_prologue fun _ => h.follows_draw hs ht (by decide) _
  | nextfloat =>
    rw [exec_nextfloat, exec_nextfloat]
    exact h.follows_prologue fun _ => h.follows_draw hs ht (by decide) _
  | nextdoubles256 =>
    rw [exec_nextdoubles256, exec_nextdoubles256]
    exact h.follows_prologue fun _ => h.follows_draw hs ht (by decide) _
  | nextdoubles512 =>
    rw [exec_nextdoubles512, exec_nextdoubles512]
    exact h.follows_prologue fun _ => h.follows_needsV512 (h.follows_draw hs ht (by decide) _)
  | cvtd v => rw [exec_cvtd, exec_cvtd]; exact h.follows_prologue fun _ => h.follows_respond _ _
  | cvtf v => rw [exec_cvtf, exec_cvtf]; exact h.follows_prologue fun _ => h.follows_respond _ _
  | rdreg r =>
    rw [exec_rdreg, exec_rdreg]
    refine h.follows_prologue fun _ => ?_
    rw [h.regRead_eq]
    cases regRead r s with
    | none => exact h.follows_raise _
    | some v => exact h.follows_respond _ _
  | wrreg r v =>
    rw [exec_wrreg, exec_wrreg]
    exact h.follows_prologue fun _ => (h.writeCfg v).follows_respond _ _

theorem AgreeOnSpecified.follows_transact (c : Command) : Follows (transact c s) (transact c t) := by
  unfold transact
  split
  · exact h.follows_exec hs ht _
  · exact h.follows_prologue fun _ => follows_next h

end

/-- Settles O23: the host makes the same move in both states, and the engine's answers agree. -/
theorem unspecifiedValuesAreNeverRead : Obligations.UnspecifiedValuesAreNeverRead := by
  intro s t s' hs ht h hstep
  have hhost : t.host = s.host := by rw [← h.fields]
  have hrsp : t.rsp = s.rsp := by rw [← h.fields]
  rcases step_next hstep with ⟨hidle, rfl⟩ | ⟨c, rest, hissue, hfree, hanswer⟩ | ⟨rest, r, htake, hr, rfl⟩ |
    ⟨rest, hreset, rfl⟩
  · exact ⟨t, step_idle (hhost.trans hidle), h⟩
  · rw [step_issue (hhost.trans hissue) (hrsp.trans hfree)]
    exact (h.withHost rest).follows_transact (hs.withHost rest) (ht.withHost rest) c s' hanswer
  · exact ⟨_, step_take (hhost.trans htake) (hrsp.trans hr), (h.withHost rest).tookResponse r⟩
  · exact ⟨_, step_reset (hhost.trans hreset), (h.withHost rest).hardwareReset⟩

end Sys2Proof.Machine
end

section
/-! PROOFS. The statements of 20_memory.md: what a round and a refill write to the buffer (R51, R52, R111, R130), the
frame of the commands that touch the stream (R55, R95), and that a wide draw is the scalar draws of its words (R51). -/

namespace Sys2Proof.Machine

/-! ## The four vectors of a chunk (R51, R52, R111) -/

theorem getElem_bytesOf {w : Nat} (v : BitVec w) {n i : Nat} (h : i < (bytesOf v n).length) :
    (bytesOf v n)[i] = v.extractLsb' (8 * i) 8 := by
  simp [bytesOf]

/-- The bytes of a chunk are those of its four vectors in index order, each little-endian. -/
theorem getElem?_chunkOf (o : Bank) {b : Nat} (hb : b < 32) :
    (chunkOf o)[b]? = some (o.v0.extractLsb' (8 * b) 8) ∧
    (chunkOf o)[32 + b]? = some (o.v1.extractLsb' (8 * b) 8) ∧
    (chunkOf o)[64 + b]? = some (o.v2.extractLsb' (8 * b) 8) ∧
    (chunkOf o)[96 + b]? = some (o.v3.extractLsb' (8 * b) 8) := by
  have e64 : 64 + b = 32 + (32 + b) := by omega
  have e96 : 96 + b = 32 + (32 + (32 + b)) := by omega
  simp [chunkOf, e64, e96, List.getElem?_append, getElem_bytesOf, hb]

/-- Where a memory holds a chunk, it holds the chunk's four vectors, 32 bytes each. -/
theorem read_vectors_of_read_chunk {m : Memory} {a : Nat} {o : Bank}
    (h : ∀ j, j < 128 → m.read (a + j) = (chunkOf o)[j]?) {b : Nat} (hb : b < 32) :
    m.read (a + b) = some (o.v0.extractLsb' (8 * b) 8) ∧
    m.read (a + 32 + b) = some (o.v1.extractLsb' (8 * b) 8) ∧
    m.read (a + 64 + b) = some (o.v2.extractLsb' (8 * b) 8) ∧
    m.read (a + 96 + b) = some (o.v3.extractLsb' (8 * b) 8) := by
  rw [Nat.add_assoc a 32, Nat.add_assoc a 64, Nat.add_assoc a 96, h b (by omega), h (32 + b) (by omega),
    h (64 + b) (by omega), h (96 + b) (by omega)]
  exact getElem?_chunkOf o hb

/-! ## What a round and a refill write -/

/-- A round to the buffer writes one chunk at its offset and nothing else (R111). -/
theorem read_runRound (dst : Nat) (s : State) (a : Nat) :
    (runRound (some dst) s).buf.read a =
      if dst ≤ a ∧ a < dst + 128 then (chunkOf s.gen.o)[a - dst]? else s.buf.read a := by
  rw [runRound, emitAt_eq, ← length_chunkOf s.gen.o]
  exact Memory.read_writeRun s.buf dst (chunkOf s.gen.o) a

/-- Settles O37: a round to the buffer writes the chunk of the old outputs; the sink leaves the buffer as it is. -/
theorem roundEmitsTheOldOutputs : Obligations.RoundEmitsTheOldOutputs := by
  intro s dst
  refine ⟨fun b hb => read_vectors_of_read_chunk (fun j hj => ?_) hb, fun a ha => ?_, fun _ => rfl, rfl, rfl⟩
  · rw [read_runRound, if_pos (by omega), Nat.add_sub_cancel_left]
  · rw [read_runRound, if_neg (by omega)]

/-- After a refill chunk `m` of the buffer is the chunk of the outputs after `m` rounds (R124, R130). -/
theorem read_refill_chunk {s : State} (h : s.inst.wf = true) {m j : Nat} (hm : m < refillRounds s) (hj : j < 128) :
    (refill s).buf.read (128 * m + j) = (chunkOf (iter roundFn m s.gen).o)[j]? := by
  have inBuffer : 128 * m + j < s.capacity := by
    have := refillRounds_mul h
    omega
  rw [read_refill h, if_pos inBuffer, getElem?_streamBytes s.gen hm hj]

/-- Settles O39: chunk by chunk, and the four vectors of each. -/
theorem refillFillsTheBufferWithTheStream : Obligations.RefillFillsTheBufferWithTheStream := by
  intro s m b h hm hb
  obtain ⟨hv0, hv1, hv2, hv3⟩ := read_vectors_of_read_chunk (fun j hj => read_refill_chunk h hm hj) hb
  exact ⟨hv0, hv1, hv2, hv3, rfl⟩

/-! ## The frame of the commands that touch the stream (R55, R95, R130, R131, R199) -/

/-- A refill writes no offset from CAPACITY on, whatever CAPACITY is (R55). -/
theorem read_refill_outside {s : State} {a : Nat} (ha : s.capacity ≤ a) : (refill s).buf.read a = s.buf.read a := by
  have written : 128 * refillRounds s ≤ s.capacity := Nat.mul_div_le s.capacity 128
  rw [refill_buf, Memory.read_writeRun, length_streamBytes, if_neg (by omega)]

theorem ensureRoom_of_le {n : Nat} {s : State} (h : s.cursor + n ≤ s.capacity) : ensureRoom n s = s :=
  if_neg (Nat.not_lt.2 h)

theorem read_ensureRoom_outside (n : Nat) {s : State} {a : Nat} (ha : s.capacity ≤ a) :
    (ensureRoom n s).buf.read a = s.buf.read a := by
  rcases ensureRoom_cases n s with ⟨-, e⟩ | ⟨-, e⟩ <;> rw [e]
  exact read_refill_outside ha

/-- The frame of a command that needs `n` bytes of the stream and takes `s` to `t` (R95, R130, R131, R199). -/
def StreamFrame (n : Nat) (s t : State) : Prop :=
  t.alloc = s.alloc ∧ t.exmode = s.exmode ∧ t.inst = s.inst ∧
  ((∃ d, t.rsp = some ⟨.ok, d⟩) → t.fault = s.fault ∧ t.fcause = s.fcause) ∧
  ((∀ d, t.rsp ≠ some ⟨.ok, d⟩) → t.cursor = s.cursor) ∧
  ((∀ d, t.rsp ≠ some ⟨.ok, d⟩) ∨ s.cursor + n ≤ s.capacity →
    t.gen = s.gen ∧ t.refills = s.refills ∧ ∀ a, t.buf.read a = s.buf.read a) ∧
  (∀ a, s.capacity ≤ a → t.buf.read a = s.buf.read a)

/-- A command that does not succeed writes FAULT, FCAUSE and the response port at most. -/
theorem streamFrame_of_failure {n : Nat} {s t : State} {f : Bool} {c : BitVec 8} {st : Status} {d : Data}
    (hst : st ≠ .ok) (ht : t = { s with fault := f, fcause := c, rsp := some ⟨st, d⟩ }) : StreamFrame n s t := by
  subst ht
  refine ⟨rfl, rfl, rfl, ?_, fun _ => rfl, fun _ => ⟨rfl, rfl, fun _ => rfl⟩, fun _ _ => rfl⟩
  rintro ⟨d', hok⟩
  injection hok with hr
  injection hr with hs
  exact absurd hs hst

/-- A command that succeeds writes CURSOR, the response port and what the refill test for its bytes writes. -/
theorem streamFrame_of_success {n c : Nat} {s t : State} {d : Data}
    (ht : t = respond .ok d { ensureRoom n s with cursor := c }) : StreamFrame n s t := by
  subst ht
  obtain ⟨hinst, halloc, hfault, hfcause, hexmode, -⟩ := ensureRoom_frame n s
  refine ⟨halloc, hexmode, hinst, fun _ => ⟨hfault, hfcause⟩, fun failed => absurd rfl (failed d), ?_,
    fun a ha => read_ensureRoom_outside n ha⟩
  rintro (failed | hroom)
  · exact absurd rfl (failed d)
  · rw [ensureRoom_of_le hroom]
    exact ⟨rfl, rfl, fun _ => rfl⟩

theorem writesNothing_of_touchesStream {i : Instr} (h : touchesStream i = true) : writesNothing i = false := by
  cases i <;> simp_all [touchesStream, writesNothing]

/-- Settles O44: of the nine ways to end, four are not open to a command that touches the stream; three are failures and
two end with the refill test. -/
theorem streamCommandsFrame : Obligations.StreamCommandsFrame := by
  intro i s t hi h
  change StreamFrame (bytesNeeded i) s t
  cases answered_of_exec h with
  | sticky hf ht => exact streamFrame_of_failure (by decide) ht
  | condition hf st hst ht => exact streamFrame_of_failure (by rintro rfl; cases hst) ht
  | misuse hf ha c _ ht => exact streamFrame_of_failure (by decide) ht
  | reading hf hw d ht => rw [writesNothing_of_touchesStream hi] at hw; cases hw
  | wroteCfg hf v hi' ht => subst hi'; cases hi
  | constructed hf ha hv seed hi' ht => subst hi'; cases hi
  | released hf ha hi' ht => subst hi'; cases hi
  | ensured hf ha n hn hi' ht => subst hi'; exact streamFrame_of_success ht
  | drew hf ha n hn _ hb v u d hr ht =>
    obtain ⟨-, rfl⟩ := readNext_ok.1 hr
    exact hb ▸ streamFrame_of_success ht

/-! ## A wide draw is the scalar draws of its words (R51, R134, R135, R161, R162)

The bytes of a wide draw are there for the scalar draws one word after another; as the refill test finds room for all of
them, neither side refills. -/

/-- Byte `i` of word `j` of a value is byte `8 j + i` of the value (R51). -/
theorem byte_quad {w : Nat} (v : BitVec w) (j : Nat) {i : Nat} (hi : i < 8) :
    (quad v j).extractLsb' (8 * i) 8 = v.extractLsb' (8 * (8 * j + i)) 8 := by
  refine BitVec.eq_of_getLsbD_eq fun b hb => ?_
  rw [BitVec.getLsbD_extractLsb', BitVec.getLsbD_extractLsb', getLsbD_quad v (by omega)]
  congr 2; omega

/-- Word `j` of a value read from the buffer stands `8 j` bytes on. -/
theorem memRead_quad {a n j : Nat} {s : State} {v : BitVec (8 * n)} (h : memRead a n s = .ok v) (hj : 8 * j + 8 ≤ n) :
    memRead (a + 8 * j) 8 s = .ok (quad v j) := by
  obtain ⟨hroom, hbytes⟩ := memRead_ok.1 h
  refine memRead_ok.2 ⟨by omega, fun i hi => ?_⟩
  rw [byte_quad v j hi, Nat.add_assoc]
  exact hbytes _ (by omega)

/-- A draw of bytes that are there takes them and moves CURSOR past them, with no refill. -/
theorem draw_of_memRead {n : Nat} {s : State} {v : BitVec (8 * n)} (ha : s.alloc = true)
    (h : memRead s.cursor n s = .ok v) (result : BitVec (8 * n) → Data) :
    draw n s result = .next (respond .ok (result v) { s with cursor := s.cursor + n }) := by
  have noRefill : ensureRoom n s = s := ensureRoom_of_le (memRead_ok.1 h).1
  refine draw_next.2 (.inr ⟨ha, v, _, readNext_ok.2 ⟨?_, rfl⟩, by rw [noRefill]⟩)
  rw [noRefill, h]

/-- A scalar draw of a word that is there. -/
theorem exec_scalarDraw {i : Instr} {s : State} {w : Quad} {d : Data} (hf : s.fault = false) (ha : s.alloc = true)
    (h : memRead s.cursor 8 s = .ok w) (hd : scalarResult s.exmode i w = some d) :
    exec i s = .next (respond .ok d { s with cursor := s.cursor + 8 }) := by
  cases i with
  | nextraw =>
    obtain rfl := Option.some.inj hd
    rw [exec_nextraw, prologue_lawful hf, draw_of_memRead ha h]
  | next =>
    obtain rfl := Option.some.inj hd
    rw [exec_next, prologue_lawful hf, draw_of_memRead ha h]
  | nextdouble =>
    obtain rfl := Option.some.inj hd
    rw [exec_nextdouble, prologue_lawful hf, draw_of_memRead ha h]
  | nextfloat =>
    obtain rfl := Option.some.inj hd
    rw [exec_nextfloat, prologue_lawful hf, draw_of_memRead ha h]
  | _ => cases hd

/-- A scalar draw repeated over words that are there: one result per word, CURSOR moved past all of them, and nothing
else changed but the response. -/
theorem repeatCommand_scalarDraw {i : Instr} {s : State} {k : Nat} {word : Nat → Quad} {data : Nat → Data}
    (hf : s.fault = false) (ha : s.alloc = true) (hw : ∀ j, j < k → memRead (s.cursor + 8 * j) 8 s = .ok (word j))
    (hd : ∀ j, j < k → scalarResult s.exmode i (word j) = some (data j)) :
    ∃ r, repeatCommand i k s = some ((List.range k).map data, { s with cursor := s.cursor + 8 * k, rsp := r }) := by
  rw [repeatCommand_eq_runCommands]
  induction k generalizing s word data with
  | zero => exact ⟨s.rsp, rfl⟩
  | succ k ih =>
    have first := exec_scalarDraw hf ha (hw 0 (Nat.succ_pos k)) (hd 0 (Nat.succ_pos k))
    have later : ∀ j, j < k → memRead (s.cursor + 8 + 8 * j) 8 s = .ok (word (j + 1)) := fun j hj => by
      rw [← hw (j + 1) (by omega), Nat.mul_add, Nat.add_assoc, Nat.add_comm 8]
    obtain ⟨r, rest⟩ := ih (s := respond .ok (data 0) { s with cursor := s.cursor + 8 }) hf ha later
      fun j hj => hd (j + 1) (by omega)
    refine ⟨r, ?_⟩
    rw [List.replicate_succ, runCommands_cons first rfl, rest, List.range_succ_eq_map, List.map_cons, List.map_map]
    simp [Nat.mul_add, Nat.add_assoc, Nat.add_comm 8]

/-! The elements of a wide result (R7, R73, R157). -/

theorem quad_zext512 {w : Nat} (v : BitVec w) {k : Nat} (hk : k < 8) : quad (zext512 v) k = quad v k :=
  BitVec.extractLsb'_setWidth_of_le (by omega)

/-- The data of a 256-bit result is zero above bit 255 (R73). -/
theorem extractLsb'_zext512_vec (v : Vec) : (zext512 v).extractLsb' 256 256 = 0 := by
  refine BitVec.eq_of_getLsbD_eq fun j hj => ?_
  simp [zext512]

theorem quad_extD256 (m : ExMode) (v : Vec) {k : Nat} (hk : k < 4) : quad (extD256 m v) k = extD m (quad v k) := by
  unfold extD256
  interval_cases k <;> simp only [quad_ofQuads]

theorem quad_append_low (hi lo : Vec) {k : Nat} (hk : k < 4) : quad (hi ++ lo) k = quad lo k :=
  BitVec.extractLsb'_append_eq_of_add_le (by omega)

theorem quad_append_high (hi lo : Vec) (k : Nat) : quad (hi ++ lo) (4 + k) = quad hi k := by
  rw [quad, BitVec.extractLsb'_append_eq_of_le (by omega), Nat.mul_add, Nat.add_sub_cancel_left, quad]

theorem quad_extD512 (m : ExMode) (v : Data) {k : Nat} (hk : k < 8) : quad (extD512 m v) k = extD m (quad v k) := by
  unfold extD512
  rcases Nat.lt_or_ge k 4 with h | h
  · rw [quad_append_low _ _ h]
    interval_cases k <;> simp only [quad_ofQuads]
  · obtain ⟨l, rfl⟩ := Nat.exists_eq_add_of_le h
    have hl : l < 4 := by omega
    rw [quad_append_high]
    interval_cases l <;> simp only [quad_ofQuads]

/-- With room for `k` words, a wide draw of them ends like `k` scalar draws, where each scalar result is the word's
element of the wide result. -/
theorem EngineInv.wideDraw_eq_scalarDraws {s : State} (h : EngineInv s) (hf : s.fault = false) (ha : s.alloc = true)
    {i j : Instr} {k : Nat} {result : BitVec (8 * (8 * k)) → Data} (hk : 0 < k ∧ k ≤ 16)
    (hroom : s.cursor + 8 * k ≤ s.capacity) (hj : exec j s = draw (8 * k) s result)
    (hi : ∀ v l, l < k → scalarResult s.exmode i (quad v l) = some (zext512 (quad (result v) l))) :
    ∃ u v, repeatCommand i k s = some ((List.range k).map (fun l => zext512 (quad (result v) l)), u) ∧
      exec j s = .next { u with rsp := some ⟨.ok, result v⟩ } := by
  obtain ⟨v, hv⟩ := h.readable ha (n := 8 * k) (by omega) (by omega)
  rw [ensureRoom_of_le hroom] at hv
  obtain ⟨r, hrun⟩ := repeatCommand_scalarDraw hf ha (fun l hl => memRead_quad hv (by omega)) (hi v)
  exact ⟨_, v, hrun, hj.trans (draw_of_memRead ha hv result)⟩

/-- Settles O45: the raw draws word by word, the doubles by the extraction of each word. -/
theorem wideDrawsAreFourScalarDraws : Obligations.WideDrawsAreFourScalarDraws := by
  intro s h hf ha hroom
  constructor
  · obtain ⟨u, v, hrun, hwide⟩ := h.wideDraw_eq_scalarDraws hf ha (i := .nextraw) (k := 4) (by decide) hroom
      ((exec_read256 s).trans (prologue_lawful hf _))
      fun v l hl => by rw [quad_zext512 v (by omega), scalarResult]
    exact ⟨u, zext512 v, hrun, hwide, extractLsb'_zext512_vec v⟩
  · obtain ⟨u, v, hrun, hwide⟩ := h.wideDraw_eq_scalarDraws hf ha (i := .nextdouble) (k := 4) (by decide) hroom
      ((exec_nextdoubles256 s).trans (prologue_lawful hf _))
      fun v l hl => by rw [quad_zext512 _ (by omega), quad_extD256 s.exmode v hl, scalarResult]
    exact ⟨u, zext512 (extD256 s.exmode v), hrun, hwide, extractLsb'_zext512_vec _⟩

/-- Settles O46: as O45; check 3 of the prologue finds the 512-bit path (R193). -/
theorem widestDrawsAreEightScalarDraws : Obligations.WidestDrawsAreEightScalarDraws := by
  intro s h hf ha hwidePath hroom
  constructor
  · obtain ⟨u, v, hrun, hwide⟩ := h.wideDraw_eq_scalarDraws hf ha (i := .nextraw) (k := 8) (by decide) hroom
      ((exec_read512 s).trans ((prologue_lawful hf _).trans (if_pos hwidePath)))
      fun v l hl => by rw [quad_zext512 v hl, scalarResult]
    exact ⟨u, zext512 v, hrun, hwide⟩
  · obtain ⟨u, v, hrun, hwide⟩ := h.wideDraw_eq_scalarDraws hf ha (i := .nextdouble) (k := 8) (by decide) hroom
      ((exec_nextdoubles512 s).trans ((prologue_lawful hf _).trans (if_pos hwidePath)))
      fun v l hl => by rw [quad_zext512 _ hl, quad_extD512 s.exmode v hl, scalarResult]
    exact ⟨u, zext512 (extD512 s.exmode v), hrun, hwide⟩

end Sys2Proof.Machine
end

section
/-! PROOFS. The statements of 30_encoding.md: the decoder and the encoder (R71 to R73, R75), the illegal commands and
their answer (R76, R195), and the host's moves at the two ports (R70, R204). -/

namespace Sys2Proof.Machine

/-! ## The fields of a command word (R71, R73) -/

/-- The three fields of a command word make up the word. -/
theorem fields_append (c : Command) : c.rsv ++ c.arg ++ c.opc = c.word := by
  simp only [Command.rsv, Command.arg, Command.opc, BitVec.extractLsb'_append_extractLsb'_eq_extractLsb']
  exact BitVec.extractLsb'_eq_self

@[simp] theorem opc_encode (i : Instr) : (encode i).opc = i.opcode := by
  rw [Command.opc, encode, BitVec.extractLsb'_append_eq_of_add_le (by decide)]
  exact BitVec.extractLsb'_eq_self

@[simp] theorem arg_encode (i : Instr) : (encode i).arg = i.argField := by
  rw [Command.arg, encode, BitVec.extractLsb'_append_eq_of_le (by decide),
    BitVec.extractLsb'_append_eq_of_add_le (by decide)]
  exact BitVec.extractLsb'_eq_self

@[simp] theorem rsv_encode (i : Instr) : (encode i).rsv = 0#16 := by
  rw [Command.rsv, encode, BitVec.extractLsb'_append_eq_of_le (by decide),
    BitVec.extractLsb'_append_eq_of_le (by decide)]
  exact BitVec.extractLsb'_eq_self

/-- A 64-bit value sent as the payload is the payload operand. -/
theorem operand_setWidth (word : BitVec 32) (v : Quad) : Command.operand ⟨word, v.setWidth 256⟩ = v := by
  rw [Command.operand, BitVec.extractLsb'_setWidth_of_le (by decide)]
  exact BitVec.extractLsb'_eq_self

/-! ## The decoder inverted (R71 to R73, R75) -/

/-- The payload operand of `i`, if it has one, is what the payload of `c` holds (R73). -/
def TakesPayload (c : Command) : Instr → Prop
  | .init _ seed => seed = c.payload
  | .cvtd v => v = c.operand
  | .cvtf v => v = c.operand
  | .wrreg _ v => v = c.operand
  | _ => True

theorem takesPayload_encode (i : Instr) : TakesPayload (encode i) i := by
  cases i with
  | init len seed => rfl
  | cvtd v => exact (operand_setWidth _ v).symm
  | cvtf v => exact (operand_setWidth _ v).symm
  | wrreg r v => exact (operand_setWidth _ v).symm
  | _ => trivial

theorem formatZ_ok {c : Command} {i j : Instr} : formatZ c i = .ok j ↔ c.arg = 0#8 ∧ i = j := by
  unfold formatZ
  split <;> simp [*]

theorem formatZ_error {c : Command} {i : Instr} {e : DecodeError} (h : formatZ c i = .error e) : c.arg ≠ 0#8 := by
  intro harg
  rw [formatZ, if_pos harg] at h
  cases h

/-- A command whose fields are those of `i` decodes to `i`. -/
theorem decode_of_fields {c : Command} {i : Instr} (hrsv : c.rsv = 0#16) (hopc : c.opc = i.opcode)
    (harg : c.arg = i.argField) (hpl : TakesPayload c i) : decode c = .ok i := by
  unfold decode
  rw [if_pos hrsv, hopc]
  cases i with
  | init len seed => rw [← show c.arg = len from harg, show seed = c.payload from hpl]; rfl
  | ensure n => rw [← show c.arg = n from harg]; rfl
  | rdreg r => rw [← show c.arg = r from harg]; rfl
  | wrreg r v => rw [← show c.arg = r from harg, show v = c.operand from hpl]; rfl
  | cvtd v => rw [show v = c.operand from hpl]; exact formatZ_ok.2 ⟨harg, rfl⟩
  | cvtf v => rw [show v = c.operand from hpl]; exact formatZ_ok.2 ⟨harg, rfl⟩
  | _ => exact formatZ_ok.2 ⟨harg, rfl⟩

/-- A command that decodes to `i` has the fields of `i`. The arms 2, 4, 15 and 16 of the decoder are those of format A,
arm 17 is that of the unassigned codes, the others are of format Z. -/
theorem fields_of_decode {c : Command} {i : Instr} (h : decode c = .ok i) :
    c.rsv = 0#16 ∧ c.opc = i.opcode ∧ c.arg = i.argField ∧ TakesPayload c i := by
  unfold decode at h
  split at h
  case isFalse => cases h
  case isTrue hrsv =>
    refine ⟨hrsv, ?_⟩
    split at h
    case h_2 | h_4 | h_15 | h_16 =>
      obtain rfl := Except.ok.inj h
      exact ⟨‹_›, rfl, by trivial⟩
    case h_17 => cases h
    all_goals
      obtain ⟨harg, rfl⟩ := formatZ_ok.1 h
      exact ⟨‹_›, harg, by trivial⟩

/-- Settles O1: the fields of an encoded command are those it was made of. -/
theorem decodeInvertsEncode : Obligations.DecodeInvertsEncode :=
  fun i => decode_of_fields (rsv_encode i) (opc_encode i) (arg_encode i) (takesPayload_encode i)

/-- Settles O2: the fields of a decoded command make up its word, and the payload operand is one of them. -/
theorem decodedCommandDeterminesItsBits : Obligations.DecodedCommandDeterminesItsBits := by
  intro c i h
  obtain ⟨hrsv, hopc, harg, hpl⟩ := fields_of_decode h
  refine ⟨?_, ?_, ?_⟩
  · rw [← fields_append c, hrsv, hopc, harg, encode]
  · rintro len seed rfl
    exact hpl
  · rintro v (rfl | rfl | ⟨r, rfl⟩) <;> exact hpl

/-- Settles O4: each word by evaluation; the seed of INIT is the payload as it stands. -/
theorem sampleWordsDecode : Obligations.SampleWordsDecode := by
  refine ⟨by decide, fun pl => ?_, by decide, by decide, by decide, by decide, by decide, by decide, by decide⟩
  rw [show 0x00002002#32 = 0#16 ++ 32#8 ++ 0x02#8 by decide]
  exact decodeInvertsEncode (.init 32 pl)

/-! ## The illegal commands (R76) -/

/-- A command that does not decode is illegal by one of the first three clauses of R76. -/
theorem isIllegal_of_decode_error {c : Command} {e : DecodeError} (h : decode c = .error e) : IsIllegal c := by
  unfold decode at h
  split at h
  case isFalse hrsv => exact .inl hrsv
  case isTrue =>
    split at h
    case h_2 | h_4 | h_15 | h_16 => cases h
    case h_17 =>
      refine .inr (.inl ?_)
      change c.opc ∉ formatZCodes ∧ c.opc ∉ formatACodes
      simp_all [formatZCodes, formatACodes]
    all_goals
      refine .inr (.inr (.inl ⟨?_, formatZ_error h⟩))
      change c.opc ∈ formatZCodes
      simp [formatZCodes, *]

theorem ensureSizeOk_eq_false {n : BitVec 8} : ensureSizeOk n = false ↔ n ≠ 8 ∧ n ≠ 32 ∧ n ≠ 64 := by
  simp [ensureSizeOk, and_assoc]

theorem rdregNumberOk_eq_false {r : BitVec 8} : rdregNumberOk r = false ↔ 4 < r.toNat := by
  simp [rdregNumberOk]

theorem wrreg_wf_eq_false {r : BitVec 8} {v : Quad} :
    (Instr.wrreg r v).wf = false ↔ r ≠ 2 ∨ v.extractLsb' 1 63 ≠ 0 := by
  simp [Instr.wf, wrregNumberOk, wrregValueOk, ← imp_iff_not_or]

/-- A command that decodes is illegal exactly when its operands are. -/
theorem isIllegal_iff_of_decode {c : Command} {i : Instr} (h : decode c = .ok i) : IsIllegal c ↔ i.wf = false := by
  obtain ⟨hrsv, hopc, harg, hpl⟩ := fields_of_decode h
  have hr : c.word.extractLsb' 16 16 = 0#16 := hrsv
  have ho : c.word.extractLsb' 0 8 = i.opcode := hopc
  have ha : c.word.extractLsb' 8 8 = i.argField := harg
  rw [IsIllegal, hr, ho, ha]
  cases i with
  | ensure n => simp [Instr.opcode, Instr.argField, formatZCodes, formatACodes, Instr.wf, ensureSizeOk_eq_false]
  | rdreg r => simp [Instr.opcode, Instr.argField, formatZCodes, formatACodes, Instr.wf, rdregNumberOk_eq_false]
  | wrreg r v =>
    have hv : v.extractLsb' 1 63 = c.payload.extractLsb' 1 63 := by
      rw [show v = c.operand from hpl, Command.operand, BitVec.extractLsb'_extractLsb'_of_le (by decide)]
    rw [wrreg_wf_eq_false, hv]
    by_cases h2 : r = 2#8 <;> simp [Instr.opcode, Instr.argField, formatZCodes, formatACodes, h2]
  | _ => simp [Instr.opcode, Instr.argField, formatZCodes, formatACodes, Instr.wf]

/-! ## The answer to an illegal command (R76, R195, R198) -/

/-- Every command begins with the prologue, which tests its operands. -/
theorem exec_eq_prologue (i : Instr) : ∃ body, ∀ s, exec i s = prologue i.wf s body := by
  cases i <;> exact ⟨_, fun _ => rfl⟩

theorem exec_illFormed {i : Instr} {s : State} (hi : i.wf = false) (hf : s.fault = false) :
    exec i s = .next (respond .illegalCommand 0 s) := by
  obtain ⟨body, hbody⟩ := exec_eq_prologue i
  rw [hbody, hi, prologue_unlawful hf]

/-- A command word that does not decode is answered by the prologue alone. -/
theorem transact_undecoded {c : Command} {e : DecodeError} (hd : decode c = .error e) (s : State) :
    transact c s = answerIllegal s := by
  simp only [transact, hd]

theorem answerIllegal_unfaulted {s : State} (hf : s.fault = false) :
    answerIllegal s = .next (respond .illegalCommand 0 s) :=
  prologue_unlawful hf _

theorem answerIllegal_faulted {s : State} (hf : s.fault = true) : answerIllegal s = .next (respondFault s) :=
  prologue_faulted hf _

theorem transact_illegal {c : Command} {s : State} (hc : IsIllegal c) (hf : s.fault = false) :
    transact c s = .next (respond .illegalCommand 0 s) := by
  cases hd : decode c with
  | error e => rw [transact_undecoded hd, answerIllegal_unfaulted hf]
  | ok i => rw [transact_decoded hd, exec_illFormed ((isIllegal_iff_of_decode hd).1 hc) hf]

/-- Settles O5: the operands are ill-formed. -/
theorem illegalOperandsChangeNothing : Obligations.IllegalOperandsChangeNothing := by
  intro s hf
  refine ⟨fun n h8 h32 h64 => ?_, fun r hr => ?_, fun r v hrv => ?_⟩
  · exact exec_illFormed (i := .ensure n) (ensureSizeOk_eq_false.2 ⟨h8, h32, h64⟩) hf
  · exact exec_illFormed (i := .rdreg r) (rdregNumberOk_eq_false.2 hr) hf
  · exact exec_illFormed (wrreg_wf_eq_false.2 hrv) hf

/-! ## A legal command is never answered with IllegalCommand (R76)

`Answered` does not tell the reported conditions apart, so the status is followed through the shared operations. -/

/-- The outcome is no state that answers IllegalCommand. -/
def NeverIllegal (o : Outcome) : Prop := ∀ t d, o = .next t → t.rsp ≠ some ⟨.illegalCommand, d⟩

theorem neverIllegal_respond {st : Status} (hst : st ≠ .illegalCommand) (d : Data) (s : State) :
    NeverIllegal (.next (respond st d s)) := by
  rintro t d' ht hr
  obtain rfl := outcome_next_inj.1 ht
  injection hr with hr
  injection hr with hr
  exact hst hr

theorem neverIllegal_fault (f : Fault) : NeverIllegal (.fault f) := by
  intro t d ht
  cases ht

theorem neverIllegal_takeFault (c : Cause) (s : State) : NeverIllegal (takeFault c s) :=
  neverIllegal_respond (by decide) _ _

theorem neverIllegal_prologue {s : State} {body : State → Outcome} (h : NeverIllegal (body s)) :
    NeverIllegal (prologue true s body) := by
  cases hf : s.fault with
  | true => rw [prologue_faulted hf]; exact neverIllegal_respond (by decide) _ _
  | false => rwa [prologue_lawful hf]

theorem neverIllegal_needsV512 {s : State} {body : State → Outcome} (h : NeverIllegal (body s)) :
    NeverIllegal (needsV512 s body) := by
  unfold needsV512
  split
  exacts [h, neverIllegal_respond (by decide) _ _]

theorem neverIllegal_needsAlloc {s : State} {body : State → Outcome} (h : NeverIllegal (body s)) :
    NeverIllegal (needsAlloc s body) := by
  unfold needsAlloc
  split
  exacts [h, neverIllegal_takeFault _ _]

theorem neverIllegal_draw {n : Nat} (s : State) (result : BitVec (8 * n) → Data) :
    NeverIllegal (draw n s result) := by
  refine neverIllegal_needsAlloc ?_
  split
  · exact neverIllegal_respond (by decide) _ _
  · exact neverIllegal_fault _

theorem exists_regRead {r : BitVec 8} (hr : rdregNumberOk r = true) (s : State) : ∃ v, regRead r s = some v := by
  have h4 : r.toNat ≤ 4 := by simpa [rdregNumberOk] using hr
  unfold regRead
  interval_cases r.toNat <;> exact ⟨_, rfl⟩

theorem neverIllegal_exec {i : Instr} (hi : i.wf = true) (s : State) : NeverIllegal (exec i s) := by
  cases i with
  | capq => rw [exec_capq]; exact neverIllegal_prologue (neverIllegal_respond (by decide) _ _)
  | init len seed =>
    rw [exec_init]
    refine neverIllegal_prologue ?_
    split_ifs <;> exact neverIllegal_respond (by decide) _ _
  | dispose =>
    rw [exec_dispose]
    refine neverIllegal_prologue ?_
    split_ifs
    exacts [neverIllegal_respond (by decide) _ _, neverIllegal_takeFault _ _]
  | ensure n =>
    rw [exec_ensure, show ensureSizeOk n = true from hi]
    exact neverIllegal_prologue (neverIllegal_needsAlloc (neverIllegal_respond (by decide) _ _))
  | nextraw => rw [exec_nextraw]; exact neverIllegal_prologue (neverIllegal_draw _ _)
  | read256 => rw [exec_read256]; exact neverIllegal_prologue (neverIllegal_draw _ _)
  | read512 => rw [exec_read512]; exact neverIllegal_prologue (neverIllegal_needsV512 (neverIllegal_draw _ _))
  | next => rw [exec_next]; exact neverIllegal_prologue (neverIllegal_draw _ _)
  | nextdouble => rw [exec_nextdouble]; exact neverIllegal_prologue (neverIllegal_draw _ _)
  | nextfloat => rw [exec_nextfloat]; exact neverIllegal_prologue (neverIllegal_draw _ _)
  | nextdoubles256 => rw [exec_nextdoubles256]; exact neverIllegal_prologue (neverIllegal_draw _ _)
  | nextdoubles512 =>
    rw [exec_nextdoubles512]; exact neverIllegal_prologue (neverIllegal_needsV512 (neverIllegal_draw _ _))
  | cvtd v => rw [exec_cvtd]; exact neverIllegal_prologue (neverIllegal_respond (by decide) _ _)
  | cvtf v => rw [exec_cvtf]; exact neverIllegal_prologue (neverIllegal_respond (by decide) _ _)
  | rdreg r =>
    have hr : rdregNumberOk r = true := hi
    obtain ⟨v, hv⟩ := exists_regRead hr s
    rw [exec_rdreg, hr]
    refine neverIllegal_prologue ?_
    rw [hv]
    exact neverIllegal_respond (by decide) _ _
  | wrreg r v =>
    rw [exec_wrreg, show (wrregNumberOk r && wrregValueOk v) = true from hi]
    exact neverIllegal_prologue (neverIllegal_respond (by decide) _ _)

/-- Settles O3: a legal command decodes, since no other word does not, and its operands are legal. -/
theorem illegalCommandsAreExactlyTheListedOnes : Obligations.IllegalCommandsAreExactlyTheListedOnes := by
  refine ⟨rfl, fun c s hf => ⟨fun hc => transact_illegal hc hf, fun hc => ?_⟩⟩
  cases hd : decode c with
  | error e => exact absurd (isIllegal_of_decode_error hd) hc
  | ok i =>
    have hi : i.wf = true := by simpa [isIllegal_iff_of_decode hd] using hc
    exact ⟨i, rfl, hi, transact_decoded hd s, neverIllegal_exec hi s⟩

/-! ## The host's moves at the ports (R70, R195, R197, R204) -/

/-- Settles O7: the step presents the word, and the prologue answers it. -/
theorem stepAnswersAnUndecodableWord : Obligations.StepAnswersAnUndecodableWord := by
  intro s c rest e hh hr hd
  rw [step_issue hh hr, transact_undecoded hd]
  exact ⟨fun hf => answerIllegal_unfaulted (s := { s with host := rest }) hf,
    fun hf => answerIllegal_faulted (s := { s with host := rest }) hf⟩

/-- Settles O9: the two moves of the host by their step lemmas. -/
theorem hostTakesTheResponse : Obligations.HostTakesTheResponse :=
  fun _ => ⟨fun _ _ hh hr => step_take hh hr, step_idle⟩

end Sys2Proof.Machine
end

section
/-! PROOFS. The statements of 40_init_lifecycle.md: INIT and its conditions (R91, R96, R97), the seed load (R92) and the
warm-up (R93), DISPOSE (R94), and the frame of the commands that only read (R90, R163, R164, R180). -/

namespace Sys2Proof.Machine

/-! ## The warm-up (R93)

The last thing the warm-up does is the copy of the outputs into the state vectors, in reverse order. -/

theorem warmUpStep_s (g : Gen) :
    (warmUpStep g).s = ⟨(warmUpStep g).o.v3, (warmUpStep g).o.v2, (warmUpStep g).o.v1, (warmUpStep g).o.v0⟩ := rfl

theorem warmUp_eq_warmUpStep (g : Gen) : warmUp g = warmUpStep (iter warmUpStep 12 g) :=
  iter_succ_outer warmUpStep 12 g

/-- From a zero counter, quad `k` of the counter is 13 increments (R23, R93). -/
theorem quad_ctr_warmUp {g : Gen} (h : g.ctr = 0) (k : Fin 4) :
    quad (warmUp g).ctr k = BitVec.ofNat 64 (13 * (#v[7, 5, 3, 1] : Vector Nat 4)[k]) := by
  have hzero : quad g.ctr k = 0 := by simp [h, quad]
  rw [warmUp, quad_ctr_iter warmUpStep_ctr, hzero, zero_add]
  rfl

/-- Settles O28: the last step of the warm-up makes the copy; the counter by its quads. -/
theorem warmUpEndsWithReversedOutputs : Obligations.WarmUpEndsWithReversedOutputs := by
  refine fun g => ⟨?_, fun h => ⟨quad_ctr_warmUp h 0, quad_ctr_warmUp h 1, quad_ctr_warmUp h 2, quad_ctr_warmUp h 3⟩⟩
  rw [warmUp_eq_warmUpStep]
  exact warmUpStep_s _

/-! ## The seed load (R92, R96) -/

/-- Settles O27: each state vector is made of its four quads, and a seed word is a slice of the payload. -/
theorem seedLoadPairsConstantsWithSeedWords : Obligations.SeedLoadPairsConstantsWithSeedWords := by
  rintro phi pl g rfl
  exact ⟨quad_ofQuads _ _ _ _, quad_ofQuads _ _ _ _, quad_ofQuads _ _ _ _, quad_ofQuads _ _ _ _, rfl, rfl⟩

/-! ## INIT (R91, R97, R198)

Outside the FAULTED state INIT passes the prologue and comes to its own conditions, one after another. -/

section
variable {s : State} (hf : s.fault = false)
include hf

theorem exec_init_unsupported (len : BitVec 8) (seed : Vec) (hv : s.inst.hasV256 = false) :
    exec (.init len seed) s = raise .unsupportedOperation s := by
  rw [exec_init, prologue_lawful hf, if_neg (ne_true_of_eq_false hv)]

theorem exec_init_invalidArgument {len : BitVec 8} (seed : Vec) (hv : s.inst.hasV256 = true)
    (hlen : len ≠ seedBytes) : exec (.init len seed) s = raise .invalidArgument s := by
  rw [exec_init, prologue_lawful hf, if_pos hv, if_neg hlen]

theorem exec_init_resourceError (seed : Vec) (hv : s.inst.hasV256 = true) (ha : s.alloc = true) :
    exec (.init seedBytes seed) s = raise .resourceError s := by
  rw [exec_init, prologue_lawful hf, if_pos hv, if_pos rfl, if_pos ha]

theorem exec_init_constructs (seed : Vec) (hv : s.inst.hasV256 = true) (ha : s.alloc = false) :
    exec (.init seedBytes seed) s = .next (respond .ok 0 (construct seed s)) := by
  rw [exec_init, prologue_lawful hf, if_pos hv, if_pos rfl, if_neg (ne_true_of_eq_false ha)]

end

/-- Settles O26: one lemma per condition. -/
theorem initConditionsComeInOrder : Obligations.InitConditionsComeInOrder := by
  refine fun s len seed hf => ⟨exec_init_unsupported hf len seed, exec_init_invalidArgument hf seed, ?_⟩
  rintro hv rfl ha
  exact exec_init_resourceError hf seed hv ha

/-- Settles O25: the next state is the constructed one with the response, whose fields are known. -/
theorem initConstructsTheGenerator : Obligations.InitConstructsTheGenerator :=
  fun _ seed hf hv ha =>
    ⟨_, exec_init_constructs hf seed hv ha, rfl, rfl, rfl, rfl, rfl, fun _ => rfl, rfl, rfl, rfl, rfl⟩

/-- Settles O29: an INIT answered OK has constructed the generator, from the payload and the instance alone. -/
theorem constructionDependsOnPayloadAndPhiAlone : Obligations.ConstructionDependsOnPayloadAndPhiAlone := by
  intro s₁ s₂ t₁ t₂ seed hphi h₁ h₂ hr₁ hr₂
  rw [init_answeredOk h₁ hr₁, init_answeredOk h₂ hr₂]
  have hgen : (construct seed s₁).gen = (construct seed s₂).gen := by rw [construct_gen, construct_gen, hphi]
  exact ⟨hgen, rfl, rfl, fun hcap => hcap⟩

/-! ## DISPOSE (R94) -/

theorem exec_dispose_releases {s : State} (hf : s.fault = false) (ha : s.alloc = true) :
    exec .dispose s = .next (respond .ok 0 (release s)) := by
  rw [exec_dispose, prologue_lawful hf, if_pos ha]

/-- Settles O30: the next state is the released one with the response, whose fields are known. -/
theorem disposeReleasesTheBlock : Obligations.DisposeReleasesTheBlock :=
  fun _ hf ha => ⟨_, exec_dispose_releases hf ha, rfl, rfl, rfl, rfl, rfl, rfl, rfl, rfl⟩

/-! ## The commands that only read (R90, R163, R164, R180) -/

/-- Settles O57: of the nine ways to end, only three are open to a command that writes nothing, and each of them gives a
response and no more. -/
theorem readingCommandsWriteNothing : Obligations.ReadingCommandsWriteNothing := by
  intro i s t hw h
  have hstream : touchesStream i ≠ true := fun hi => by
    rw [writesNothing_of_touchesStream hi] at hw
    cases hw
  cases answered_of_exec h with
  | sticky hf ht => subst ht; rfl
  | condition hf st hst ht => subst ht; rfl
  | misuse hf ha c hi ht =>
    rcases hi with hi | rfl
    · exact absurd hi hstream
    · cases hw
  | reading hf _ d ht => subst ht; rfl
  | wroteCfg hf v hi ht => subst hi; cases hw
  | constructed hf ha hv seed hi ht => subst hi; cases hw
  | released hf ha hi ht => subst hi; cases hw
  | ensured hf ha n hn hi ht => subst hi; cases hw
  | drew hf ha n hn hi => exact absurd hi hstream

end Sys2Proof.Machine
end

section
/-! PROOFS. The statements of 41_round_function.md: the steps of a round (R112 to R117, R119), and that a host of 8-byte
draws reads the stream word by word across refills (R124, R139). -/

namespace Sys2Proof.Machine

/-! ## The steps of a round, quad by quad (R112 to R117, R119) -/

/-- A vector is determined by its four quads. -/
theorem eq_of_quad_eq {a b : Vec} (h : ∀ k, k < 4 → quad a k = quad b k) : a = b := by
  rw [← ofQuads_quads a, ← ofQuads_quads b, h 0 (by decide), h 1 (by decide), h 2 (by decide), h 3 (by decide)]

theorem quad_xor256 (a b : Vec) (k : Nat) : quad (xor256 a b) k = quad a k ^^^ quad b k := by
  refine BitVec.eq_of_getLsbD_eq fun j hj => ?_
  rw [BitVec.getLsbD_xor, getLsbD_quad _ hj, getLsbD_quad _ hj, getLsbD_quad _ hj, getLsbD_xor256]

/-- A vector whose quads are the sums of two vectors' quads is the sum of the two. -/
theorem eq_add64x4_of_quad_eq {v a b : Vec} (h : ∀ k, k < 4 → quad v k = quad a k + quad b k) : v = add64x4 a b :=
  eq_of_quad_eq fun k hk => (h k hk).trans (quad_add64x4 a b hk).symm

/-- Settles O34: the injected vectors are the model's own, and each step acts quad by quad. -/
theorem roundComputesStepsTwoToSix : Obligations.RoundComputesStepsTwoToSix := by
  rintro g r a1 a3 rfl hinj
  obtain rfl : a1 = add64x4 g.s.v1 g.ctr := eq_add64x4_of_quad_eq fun k hk => (hinj k hk).1
  obtain rfl : a3 = add64x4 g.s.v3 g.ctr := eq_add64x4_of_quad_eq fun k hk => (hinj k hk).2
  have shifted : ∀ (t a : Vec) (n : Nat) {k : Nat}, k < 4 →
      quad (add64x4 t (srl64x4 a n)) k = quad t k + (quad a k >>> n) := fun t a n k hk => by
    rw [quad_add64x4 _ _ hk, quad_srl64x4 _ _ hk]
  have mixed : ∀ (a t : Vec) (n : Nat) {k : Nat}, k < 4 →
      quad (xor256 (srl64x4 a n) t) k = (quad a k >>> n) ^^^ quad t k := fun a t n k hk => by
    rw [quad_xor256, quad_srl64x4 _ _ hk]
  have counter : ∀ k : Fin 4, quad (roundFn g).ctr k = quad g.ctr k + quad incVec k := fun k => by
    rw [roundFn_ctr, quad_add64x4 _ _ k.isLt]
  refine ⟨fun k hk => ⟨shifted _ _ 1 hk, shifted _ _ 3 hk, shifted _ _ 1 hk, shifted _ _ 3 hk, mixed _ _ 1 hk,
    mixed _ _ 1 hk, quad_xor256 _ _ k, quad_xor256 _ _ k⟩, ?_, ?_, ?_, ?_⟩
  · exact (counter 0).trans (congrArg _ (quad_incVec 0))
  · exact (counter 1).trans (congrArg _ (quad_incVec 1))
  · exact (counter 2).trans (congrArg _ (quad_incVec 2))
  · exact (counter 3).trans (congrArg _ (quad_incVec 3))

/-- Settles O36: `roundFn` does not name the old outputs. -/
theorem roundDependsOnStateAndCounterOnly : Obligations.RoundDependsOnStateAndCounterOnly :=
  fun _ _ _ _ => rfl

/-! ## The bytes of the stream are those of its words (R51, R52, R124) -/

/-- The stream of `m + n` rounds is that of `m` rounds and that of the `n` rounds after them. -/
theorem streamBytes_add (m n : Nat) (g : Gen) :
    streamBytes (m + n) g = streamBytes m g ++ streamBytes n (iter roundFn m g) := by
  induction m generalizing g with
  | zero => simp [streamBytes]
  | succ m ih => rw [Nat.succ_add, streamBytes, ih, streamBytes, iter_succ, List.append_assoc]

/-- Byte `b` of word `k` of the stream is byte `8 k + b` of the stream. -/
theorem getElem?_streamBytes_word {n k b : Nat} (g : Gen) (hk : k < 16 * n) (hb : b < 8) :
    (streamBytes n g)[8 * k + b]? = some ((streamWord g k).extractLsb' (8 * b) 8) := by
  have inChunk : 8 * k + b = 128 * (k / 16) + (32 * (k / 4 % 4) + (8 * (k % 4) + b)) := by omega
  rw [inChunk, getElem?_streamBytes g (by omega) (by omega)]
  obtain ⟨h0, h1, h2, h3⟩ := getElem?_chunkOf (iter roundFn (k / 16) g).o (b := 8 * (k % 4) + b) (by omega)
  obtain hv | hv | hv | hv : k / 4 % 4 = 0 ∨ k / 4 % 4 = 1 ∨ k / 4 % 4 = 2 ∨ k / 4 % 4 = 3 := by omega
  · simp only [streamWord, hv, byte_quad _ _ hb, Nat.mul_zero, Nat.zero_add, h0]
  · simp only [streamWord, hv, byte_quad _ _ hb, Nat.mul_one, h1]
  · simp only [streamWord, hv, byte_quad _ _ hb, h2]
  · simp only [streamWord, hv, byte_quad _ _ hb, h3]

/-! ## A host of 8-byte draws (R131, R139)

The invariant of such a host: `k` words of the stream are drawn, and what is left of the buffer goes on from there. A
refill keeps it, with more rounds run; a draw takes one word more. -/

/-- `s` has a generator allocated and stands at word `k` of the stream of `g`: after `r` rounds from `g`, the bytes drawn
and the bytes unread are those the rounds emitted, and the unread ones are the stream's from word `k` on. -/
structure AtWord (g : Gen) (k r : Nat) (s : State) : Prop where
  instance_ok : s.inst.wf = true
  unfaulted : s.fault = false
  allocated : s.alloc = true
  vectors : s.gen = iter roundFn r g
  cursor_le : s.cursor ≤ s.capacity
  count : 8 * k + s.capacity = 128 * r + s.cursor
  unread : ∀ j, s.cursor + j < s.capacity → s.buf.read (s.cursor + j) = (streamBytes r g)[8 * k + j]?

/-- With no unread byte, the stream starts at the vectors. -/
theorem AtWord.start {s : State} (h : EngineInv s) (hf : s.fault = false) (ha : s.alloc = true)
    (hc : s.cursor = s.capacity) : AtWord s.gen 0 0 s where
  instance_ok := h.instance_ok
  unfaulted := hf
  allocated := ha
  vectors := rfl
  cursor_le := h.cursor_le
  count := by omega
  unread := fun j hj => absurd hj (by omega)

section
variable {g : Gen} {k r : Nat} {s : State}

/-- A refill of a buffer with no unread byte leads on from the same word. -/
theorem AtWord.refill (h : AtWord g k r s) (hc : s.cursor = s.capacity) :
    AtWord g k (r + refillRounds s) (Machine.refill s) where
  instance_ok := h.instance_ok
  unfaulted := h.unfaulted
  allocated := h.allocated
  vectors := by rw [refill_gen, h.vectors, iter_add]
  cursor_le := Nat.zero_le _
  count := by
    have := h.count
    have := refillRounds_mul h.instance_ok
    simp only [refill_capacity, refill_cursor]
    omega
  unread := fun j hj => by
    have drawn : (streamBytes r g).length = 8 * k := by
      have := h.count
      rw [length_streamBytes]
      omega
    rw [refill_cursor, Nat.zero_add] at hj ⊢
    rw [refill_capacity] at hj
    rw [read_refill h.instance_ok, if_pos hj, h.vectors, streamBytes_add,
      List.getElem?_append_right (by omega), drawn, Nat.add_sub_cancel_left]

/-- The refill test before an 8-byte draw: the unread bytes are whole words, so it refills only when there are none. -/
theorem AtWord.ensureRoom (h : AtWord g k r s) : ∃ r', AtWord g k r' (Machine.ensureRoom 8 s) := by
  rcases ensureRoom_cases 8 s with ⟨-, e⟩ | ⟨hshort, e⟩ <;> rw [e]
  · exact ⟨r, h⟩
  · have := h.count
    have := h.cursor_le
    have := refillRounds_mul h.instance_ok
    exact ⟨_, h.refill (by omega)⟩

/-- Where unread bytes are left, the first eight of them are the word. -/
theorem AtWord.memRead (h : AtWord g k r s) (hroom : s.cursor + 8 ≤ s.capacity) :
    Machine.memRead s.cursor 8 s = .ok (streamWord g k) := by
  have := h.count
  refine memRead_ok.2 ⟨hroom, fun b hb => ?_⟩
  rw [h.unread b (by omega), getElem?_streamBytes_word g (by omega) hb]

/-- Past the word the state stands at the next one. -/
theorem AtWord.advance (h : AtWord g k r s) (hroom : s.cursor + 8 ≤ s.capacity) :
    AtWord g (k + 1) r { s with cursor := s.cursor + 8 } :=
  { h with
    cursor_le := hroom
    count := by
      have := h.count
      change 8 * (k + 1) + s.capacity = 128 * r + (s.cursor + 8)
      omega
    unread := fun j hj => by
      have ahead := h.unread (8 + j) (by rwa [← Nat.add_assoc])
      rwa [← Nat.add_assoc, ← Nat.add_assoc] at ahead }

theorem AtWord.respond (h : AtWord g k r s) (st : Status) (d : Data) : AtWord g k r (Machine.respond st d s) :=
  { h with }

/-- ReadNext of 8 bytes returns the word, refilling where it must, and leaves the state at the next one (R131). -/
theorem AtWord.readNext (h : AtWord g k r s) :
    ∃ r' u, Machine.readNext 8 s = .ok (streamWord g k, u) ∧ u.exmode = s.exmode ∧ AtWord g (k + 1) r' u := by
  obtain ⟨r', h'⟩ := h.ensureRoom
  obtain ⟨hinst, -, -, -, hexmode, -⟩ := ensureRoom_frame 8 s
  have hroom : (Machine.ensureRoom 8 s).cursor + 8 ≤ (Machine.ensureRoom 8 s).capacity := by
    have := capacity_ge h.instance_ok
    rcases ensureRoom_cases 8 s with ⟨hle, e⟩ | ⟨-, e⟩ <;> rw [e]
    · exact hle
    · rw [refill_cursor, refill_capacity]; omega
  exact ⟨r', _, readNext_ok.2 ⟨h'.memRead hroom, rfl⟩, hexmode, h'.advance hroom⟩

/-- The four scalar draws are one draw of 8 bytes, each with a result of its own (R133, R158 to R160). -/
theorem exec_eq_draw_of_mem_scalarDraws {i : Instr} (hi : i ∈ scalarDraws) :
    ∃ result : ExMode → Quad → Data, (∀ m v, scalarResult m i v = some (result m v)) ∧
      ∀ s, exec i s = prologue true s fun s => draw 8 s (result s.exmode) := by
  simp only [scalarDraws, List.mem_cons, List.not_mem_nil, or_false] at hi
  rcases hi with rfl | rfl | rfl | rfl
  · exact ⟨fun _ => zext512, fun _ _ => rfl, exec_nextraw⟩
  · exact ⟨fun _ v => zext512 (topHalf v), fun _ _ => rfl, exec_next⟩
  · exact ⟨fun m v => zext512 (extD m v), fun _ _ => rfl, exec_nextdouble⟩
  · exact ⟨fun m v => zext512 (extF m v), fun _ _ => rfl, exec_nextfloat⟩

/-- A scalar draw answers with what it makes of the word, and leaves the state at the next one. -/
theorem AtWord.exec_scalarDraw (h : AtWord g k r s) {i : Instr} (hi : i ∈ scalarDraws) :
    ∃ r' t d, exec i s = .next t ∧ t.rsp = some ⟨.ok, d⟩ ∧ scalarResult s.exmode i (streamWord g k) = some d ∧
      t.exmode = s.exmode ∧ AtWord g (k + 1) r' t := by
  obtain ⟨result, hresult, hexec⟩ := exec_eq_draw_of_mem_scalarDraws hi
  obtain ⟨r', u, hread, hexmode, hu⟩ := h.readNext
  refine ⟨r', Machine.respond .ok (result s.exmode (streamWord g k)) u, _, ?_, rfl, hresult _ _, hexmode, hu.respond _ _⟩
  rw [hexec, prologue_lawful h.unfaulted]
  exact draw_next.2 (.inr ⟨h.allocated, _, u, hread, rfl⟩)

end

/-- A run of scalar draws from word `k` on takes one word each, whatever refills it meets. -/
theorem AtWord.runCommands_scalarDraws {g : Gen} {k r : Nat} {s : State} (h : AtWord g k r s) {is : List Instr}
    (hi : ∀ i ∈ is, i ∈ scalarDraws) :
    ∃ r' ds u, runCommands is s = some (ds, u) ∧ AtWord g (k + is.length) r' u ∧
      ds.map some = is.mapIdx fun j i => scalarResult s.exmode i (streamWord g (k + j)) := by
  induction is generalizing k r s with
  | nil => exact ⟨r, [], s, rfl, h, rfl⟩
  | cons i is ih =>
    obtain ⟨hfirst, hrest⟩ := List.forall_mem_cons.1 hi
    obtain ⟨r₁, t, d, hexec, hrsp, hd, hexmode, ht⟩ := h.exec_scalarDraw hfirst
    obtain ⟨r', ds, u, hrun, hu, hds⟩ := ih ht hrest
    refine ⟨r', d :: ds, u, by rw [runCommands_cons hexec hrsp, hrun]; rfl, ?_, ?_⟩
    · rwa [List.length_cons, Nat.add_comm is.length, ← Nat.add_assoc]
    · simp only [List.map_cons, hds, List.mapIdx_cons, Nat.add_zero, hd, hexmode, Nat.add_assoc, Nat.add_comm 1]

/-- Settles O47: the run of draws from word 0 on. -/
theorem scalarDrawsReadTheStreamWhateverTheCapacity : Obligations.ScalarDrawsReadTheStreamWhateverTheCapacity := by
  intro s is h hf ha hc hi
  obtain ⟨-, ds, u, hrun, -, hds⟩ := (AtWord.start h hf ha hc).runCommands_scalarDraws hi
  exact ⟨ds, u, hrun, by simpa only [Nat.zero_add] using hds⟩

end Sys2Proof.Machine
end

section
/-! PROOFS. The statements of 42_buffer_read.md: REFILL is the loop of rounds (R130), ENSURE and the draws at the cursor
(R131 to R135), and the refill count property (R140). -/

namespace Sys2Proof.Machine

/-! ## REFILL is the loop of rounds (R110, R130) -/

/-- A round to the buffer is one run of 128 bytes and the new vectors (R111, R118). -/
theorem runRound_some (dst : Nat) (s : State) :
    runRound (some dst) s = { s with buf := s.buf.writeRun dst (chunkOf s.gen.o), gen := roundFn s.gen } := by
  rw [runRound, emitAt_eq]

theorem Memory.writeRun_zero_nil (m : Memory) : m.writeRun 0 [] = m := by
  simp [Memory.writeRun, cellsFrom]

/-- `n` rounds at offsets 0, 128, 256, ... are one run of the `128 n` bytes they emit. -/
theorem foldl_runRound (n : Nat) (s : State) :
    (List.range n).foldl (fun u c => runRound (some (128 * c)) u) s =
      { s with buf := s.buf.writeRun 0 (streamBytes n s.gen), gen := iter roundFn n s.gen } := by
  induction n with
  | zero =>
    rw [streamBytes, Memory.writeRun_zero_nil]
    rfl
  | succ n ih =>
    have nextRun := Memory.writeRun_writeRun s.buf 0 (streamBytes n s.gen) (chunkOf (iter roundFn n s.gen).o)
    rw [length_streamBytes, Nat.zero_add] at nextRun
    rw [List.range_succ, List.foldl_append, ih, List.foldl_cons, List.foldl_nil, runRound_some, nextRun,
      streamBytes_succ_outer, iter_succ_outer]

/-- Settles O38: the loop writes the run of its rounds; the bytes are those of O39, and none lies outside the buffer. -/
theorem refillIsTheLoopOfRounds : Obligations.RefillIsTheLoopOfRounds := by
  refine fun s => ⟨?_, fun h m b hm hb => ?_, fun a ha => read_refill_outside ha⟩
  · rw [foldl_runRound]
    rfl
  · obtain ⟨hv0, hv1, hv2, hv3, -⟩ := refillFillsTheBufferWithTheStream s m b h hm hb
    exact ⟨hv0, hv1, hv2, hv3⟩

/-! ## ENSURE (R132) -/

/-- Settles O40: the three sizes are legal, and ENSURE is the refill test. -/
theorem ensureRefillsExactlyWhenShort : Obligations.EnsureRefillsExactlyWhenShort := by
  intro s n hf ha hn
  have lawful : ensureSizeOk n = true := by rcases hn with rfl | rfl | rfl <;> rfl
  rw [exec_ensure, lawful, prologue_lawful hf, needsAlloc, if_pos ha]
  rfl

/-! ## The draws at the cursor (R131, R133 to R135, R157 to R162) -/

/-- Under the invariant every draw of `n` bytes answers with what it makes of one and the same value: the one that
stands at the cursor after the refill test. -/
theorem EngineInv.draw_eq {s : State} (h : EngineInv s) (ha : s.alloc = true) {n : Nat} (hn : 0 < n ∧ n ≤ 128) :
    ∃ v : BitVec (8 * n), BytesAt (Machine.ensureRoom n s) (Machine.ensureRoom n s).cursor n v ∧
      ∀ result, draw n s result = .next (Machine.respond .ok (result v)
        { Machine.ensureRoom n s with cursor := (Machine.ensureRoom n s).cursor + n }) := by
  obtain ⟨v, hv⟩ := h.readable ha hn.1 hn.2
  exact ⟨v, (memRead_ok.1 hv).2, fun result => draw_next.2 (.inr ⟨ha, v, _, readNext_ok.2 ⟨hv, rfl⟩, rfl⟩)⟩

/-- Settles O41: the four commands are draws of 8 bytes. -/
theorem scalarDrawsReadAtTheCursor : Obligations.ScalarDrawsReadAtTheCursor := by
  rintro s u h hf ha rfl
  obtain ⟨v, hbytes, hdraw⟩ := h.draw_eq ha (n := 8) (by decide)
  refine ⟨v, hbytes, ?_, ?_, ?_, ?_⟩
  · exact (exec_nextraw s).trans ((prologue_lawful hf _).trans (hdraw _))
  · exact (exec_next s).trans ((prologue_lawful hf _).trans (hdraw _))
  · exact (exec_nextdouble s).trans ((prologue_lawful hf _).trans (hdraw _))
  · exact (exec_nextfloat s).trans ((prologue_lawful hf _).trans (hdraw _))

/-- Settles O42: the two commands are draws of 32 bytes; the vector of doubles is made quad by quad. -/
theorem wideDrawsReadAtTheCursor : Obligations.WideDrawsReadAtTheCursor := by
  rintro s u h hf ha rfl
  obtain ⟨v, hbytes, hdraw⟩ := h.draw_eq ha (n := 32) (by decide)
  refine ⟨v, extD256 s.exmode v, hbytes, fun k hk => quad_extD256 _ _ hk, ?_, ?_⟩
  · exact (exec_read256 s).trans ((prologue_lawful hf _).trans (hdraw _))
  · exact (exec_nextdoubles256 s).trans ((prologue_lawful hf _).trans (hdraw _))

/-- A 512-bit result fills DATA. -/
theorem zext512_data (v : Data) : zext512 v = v := BitVec.setWidth_eq v

/-- Settles O43: as O42 with draws of 64 bytes; check 3 of the prologue finds the 512-bit path (R193). -/
theorem widestDrawsReadAtTheCursor : Obligations.WidestDrawsReadAtTheCursor := by
  rintro s u h hf ha hwidePath rfl
  obtain ⟨v, hbytes, hdraw⟩ := h.draw_eq ha (n := 64) (by decide)
  refine ⟨v, extD512 s.exmode v, hbytes, fun k hk => quad_extD512 _ _ hk, ?_, ?_⟩
  · rw [exec_read512, prologue_lawful hf, needsV512, if_pos hwidePath, hdraw, zext512_data]
    rfl
  · rw [exec_nextdoubles512, prologue_lawful hf, needsV512, if_pos hwidePath, hdraw, zext512_data]
    rfl

/-! ## The refill count property (R139, R140)

A NEXTRAW that finds no unread byte is a NEXTRAW after a refill. So CAPACITY/8 of them from an empty buffer draw the
words of one refilled buffer, and the next one the first word of a second. -/

/-- Word `i` of the stream after `m` rounds is word `16 m + i` of the stream (R124). -/
theorem streamWord_iter (m i : Nat) (g : Gen) : streamWord (iter roundFn m g) i = streamWord g (16 * m + i) := by
  have hround : (16 * m + i) / 16 = m + i / 16 := by omega
  have hvector : (16 * m + i) / 4 % 4 = i / 4 % 4 := by omega
  have hquad : (16 * m + i) % 4 = i % 4 := by omega
  simp only [streamWord, hround, hvector, hquad, iter_add]

/-- After a refill word `j` of the buffer is word `j` of the stream from the vectors before (R139). -/
theorem memRead_refill_word {s : State} (h : s.inst.wf = true) {j : Nat} (hj : 8 * j + 8 ≤ s.capacity) :
    memRead (8 * j) 8 (refill s) = .ok (streamWord s.gen j) := by
  have := refillRounds_mul h
  refine memRead_ok.2 ⟨hj, fun b hb => ?_⟩
  rw [read_refill h, if_pos (by omega), getElem?_streamBytes_word _ (by omega) hb]

/-- A run of at least one command depends on the start only by what the first command answers there. -/
theorem repeatCommand_congr {i : Instr} {s t : State} (h : exec i s = exec i t) {n : Nat} (hn : 0 < n) :
    repeatCommand i n s = repeatCommand i n t := by
  cases n with
  | zero => cases hn
  | succ n => simp only [repeatCommand, h]

section
variable {s : State} (h : s.inst.wf = true) (hf : s.fault = false) (ha : s.alloc = true) (hc : s.cursor = s.capacity)
include h hf ha hc

theorem exec_nextraw_refill : exec .nextraw s = exec .nextraw (refill s) := by
  have short : ensureRoom 8 s = refill s := if_pos (by omega)
  have enough : ensureRoom 8 (refill s) = refill s := by
    have := capacity_ge h
    exact ensureRoom_of_le (show 0 + 8 ≤ s.capacity by omega)
  have sameRead : readNext 8 s = readNext 8 (refill s) := by rw [readNext, readNext, short, enough]
  rw [exec_nextraw, exec_nextraw, prologue_lawful hf, prologue_lawful (s := refill s) hf, draw, draw, needsAlloc,
    needsAlloc, if_pos ha, if_pos (show (refill s).alloc = true from ha), sameRead]

theorem exec_nextraw_empty :
    exec .nextraw s = .next (respond .ok (zext512 (streamWord s.gen 0)) { refill s with cursor := 8 }) := by
  have := capacity_ge h
  rw [exec_nextraw_refill h hf ha hc]
  exact exec_scalarDraw (s := refill s) hf ha (memRead_refill_word h (j := 0) (by omega)) rfl

/-- CAPACITY/8 NEXTRAW commands from an empty buffer refill once and draw the whole buffer. -/
theorem repeatCommand_nextraw_capacity :
    ∃ r, repeatCommand .nextraw (s.capacity / 8) s =
      some ((List.range (s.capacity / 8)).map fun j => zext512 (streamWord s.gen j),
        { refill s with cursor := s.capacity, rsp := r }) := by
  have := capacity_ge h
  have consumed : 0 + 8 * (s.capacity / 8) = s.capacity := by
    have := capacity_aligned h
    omega
  obtain ⟨r, hrun⟩ := repeatCommand_scalarDraw (i := .nextraw) (s := refill s) (k := s.capacity / 8) hf ha
    (fun j hj => (congrArg (memRead · 8 _) (Nat.zero_add _)).trans (memRead_refill_word h (by omega)))
    (fun _ _ => rfl)
  rw [refill_cursor, consumed] at hrun
  exact ⟨r, (repeatCommand_congr (exec_nextraw_refill h hf ha hc) (by omega)).trans hrun⟩

end

/-- Settles O48: INIT leaves no unread byte, and neither do CAPACITY/8 NEXTRAW commands after it. -/
theorem consumingTheBufferTriggersOneRefill : Obligations.ConsumingTheBufferTriggersOneRefill := by
  intro s t seed hinv hinit hok
  have ht := hinv.of_exec hinit
  have hwf := ht.instance_ok
  obtain rfl := init_answeredOk hinit hok
  have unfaulted : (respond .ok 0 (construct seed s)).fault = false :=
    Bool.eq_false_iff.2 fun hf => Bool.noConfusion (ht.faulted_free hf)
  obtain ⟨r, hrun⟩ := repeatCommand_nextraw_capacity hwf unfaulted rfl rfl
  have nextWord := exec_nextraw_empty
    (s := { refill (respond .ok 0 (construct seed s)) with cursor := s.capacity, rsp := r }) hwf unfaulted rfl rfl
  have words : 16 * refillRounds (respond .ok 0 (construct seed s)) = s.capacity / 8 := by
    have := refillRounds_mul hwf
    rw [respond_capacity, construct_capacity] at this
    omega
  refine ⟨_, _, _, hrun, rfl, rfl, nextWord, rfl, rfl, ?_⟩
  rw [respond_rsp, refill_gen, streamWord_iter, Nat.add_zero, words]
  rfl

end Sys2Proof.Machine
end

section
/-! PROOFS. The statements of 43_extraction.md: the numbers that the extractions stand for (R150 to R156), NEXT's result
(R158), the conversions (R163, R164); and of 44_system.md the write of CFG (R153, R181). -/

namespace Sys2Proof.Machine

/-! ## What a mantissa's pattern stands for (R154 to R156)

Both formats place the leading 1 bit of a mantissa `m` of `p + 1` bits at bit `p` and drop it there, and both add the
index of that bit to the exponent of `2 ^ -(p + 1)`. -/

/-- The fraction below the leading 1 bit, moved to the top of the fraction field, fits the field. -/
theorem fraction_lt {p m : Nat} (h0 : m ≠ 0) (hm : m < 2 ^ (p + 1)) :
    (m - 2 ^ m.log2) * 2 ^ (p - m.log2) < 2 ^ p := by
  have hk : m.log2 ≤ p := Nat.lt_succ_iff.1 ((Nat.log2_lt h0).2 hm)
  have below : m - 2 ^ m.log2 < 2 ^ m.log2 := by
    have := Nat.lt_log2_self (n := m)
    rw [Nat.pow_succ] at this
    omega
  calc (m - 2 ^ m.log2) * 2 ^ (p - m.log2)
      < 2 ^ m.log2 * 2 ^ (p - m.log2) := Nat.mul_lt_mul_of_pos_right below (Nat.two_pow_pos _)
    _ = 2 ^ p := by rw [← Nat.pow_add, Nat.add_sub_cancel' hk]

/-- With the exponent `k - (p + 1)`, `k` the index of the leading 1 bit, the normal number is `m / 2 ^ (p + 1)`. -/
theorem normalValue_mantissa {p bias m : Nat} (hbias : p < bias) (h0 : m ≠ 0) (hm : m < 2 ^ (p + 1)) :
    normalValue p bias (bias - (p + 1) + m.log2) ((m - 2 ^ m.log2) * 2 ^ (p - m.log2)) = (m : ℚ) / 2 ^ (p + 1) := by
  have hk : m.log2 ≤ p := Nat.lt_succ_iff.1 ((Nat.log2_lt h0).2 hm)
  have exponent : ((bias - (p + 1) + m.log2 : Nat) : ℤ) - bias = (m.log2 : ℤ) - (p + 1 : Nat) := by omega
  have field : (2 : ℚ) ^ p = 2 ^ m.log2 * 2 ^ (p - m.log2) := by rw [← pow_add, Nat.add_sub_cancel' hk]
  have significand : 1 + (((m - 2 ^ m.log2) * 2 ^ (p - m.log2) : Nat) : ℚ) / 2 ^ p = m / 2 ^ m.log2 := by
    rw [field, Nat.cast_mul, Nat.cast_sub (Nat.log2_self_le h0)]
    push_cast
    field_simp
    ring
  rw [normalValue, exponent, significand, zpow_sub₀ two_ne_zero, zpow_natCast, zpow_natCast]
  field_simp

/-- An exponent above a fraction of `p` bits, as a number. -/
theorem toNat_exponent_or_fraction {w p ex f : Nat} (hf : f < 2 ^ p) (hw : 2 ^ p * (ex + 1) ≤ 2 ^ w) :
    (BitVec.ofNat w ex <<< p ||| BitVec.ofNat w f).toNat = 2 ^ p * ex + f := by
  have inRange : 2 ^ p * ex + f < 2 ^ w := by rw [Nat.mul_succ] at hw; omega
  have hex : ex < 2 ^ w := by
    have := Nat.le_mul_of_pos_left ex (Nat.two_pow_pos p)
    omega
  have hshift : ex <<< p = 2 ^ p * ex := by rw [Nat.shiftLeft_eq, Nat.mul_comm]
  rw [BitVec.toNat_or, BitVec.toNat_shiftLeft, BitVec.toNat_ofNat, BitVec.toNat_ofNat, Nat.mod_eq_of_lt hex,
    Nat.mod_eq_of_lt (show f < 2 ^ w by omega), Nat.mod_eq_of_lt (show ex <<< p < 2 ^ w by omega), hshift,
    Nat.two_pow_add_eq_or_of_lt hf]

/-- The three fields of such a number: the exponent, the fraction, and the sign bit above both. -/
theorem fields_of_toNat {w p e ex f : Nat} {b : BitVec w} (hb : b.toNat = 2 ^ p * ex + f) (hf : f < 2 ^ p)
    (hex : ex < 2 ^ e) :
    (b.extractLsb' p e).toNat = ex ∧ (b.extractLsb' 0 p).toNat = f ∧ b.getLsbD (p + e) = false := by
  refine ⟨?_, ?_, Nat.testBit_lt_two_pow ?_⟩
  · rw [BitVec.extractLsb'_toNat, Nat.shiftRight_eq_div_pow, hb, Nat.mul_add_div (Nat.two_pow_pos p),
      Nat.div_eq_of_lt hf, Nat.add_zero, Nat.mod_eq_of_lt hex]
  · rw [BitVec.extractLsb'_toNat, Nat.shiftRight_zero, hb, Nat.mul_add_mod, Nat.mod_eq_of_lt hf]
  · calc b.toNat < 2 ^ p * (ex + 1) := by rw [hb, Nat.mul_succ]; omega
      _ ≤ 2 ^ p * 2 ^ e := Nat.mul_le_mul_left _ hex
      _ = 2 ^ (p + e) := (Nat.pow_add 2 p e).symm

theorem binary64Value_of_toNat {b : BitVec 64} {ex f : Nat} (hb : b.toNat = 2 ^ 52 * ex + f) (hf : f < 2 ^ 52)
    (hpos : 0 < ex) (hlt : ex < 2047) : binary64Value b = some (normalValue 52 1023 ex f) := by
  obtain ⟨exponent, fraction, sign⟩ := fields_of_toNat (e := 11) hb hf (by omega)
  rw [binary64Value, exponent, fraction, sign, if_neg Bool.false_ne_true, if_neg hpos.ne', if_neg hlt.ne]

theorem binary32Value_of_toNat {b : BitVec 32} {ex f : Nat} (hb : b.toNat = 2 ^ 23 * ex + f) (hf : f < 2 ^ 23)
    (hpos : 0 < ex) (hlt : ex < 255) : binary32Value b = some (normalValue 23 127 ex f) := by
  obtain ⟨exponent, fraction, sign⟩ := fields_of_toNat (e := 8) hb hf (by omega)
  rw [binary32Value, exponent, fraction, sign, if_neg Bool.false_ne_true, if_neg hpos.ne', if_neg hlt.ne]

/-- The pattern of R154 stands for `m * 2 ^ -53` exactly. -/
theorem binary64Value_encD (m : BitVec 53) : binary64Value (encD m) = some ((m.toNat : ℚ) / 2 ^ 53) := by
  by_cases h : m = 0#53
  · subst h
    simp [encD, binary64Value]
  · have h0 : m.toNat ≠ 0 := fun h' => h (BitVec.eq_of_toNat_eq h')
    have hk : m.toNat.log2 < 53 := (Nat.log2_lt h0).2 m.isLt
    have hf := fraction_lt (p := 52) h0 m.isLt
    rw [encD, if_neg h, binary64Value_of_toNat (toNat_exponent_or_fraction hf (by omega)) hf (by omega) (by omega)]
    exact congrArg some (normalValue_mantissa (p := 52) (bias := 1023) (by omega) h0 m.isLt)

/-- The pattern of R155 stands for `m * 2 ^ -24` exactly. -/
theorem binary32Value_encF (m : BitVec 24) : binary32Value (encF m) = some ((m.toNat : ℚ) / 2 ^ 24) := by
  by_cases h : m = 0#24
  · subst h
    simp [encF, binary32Value]
  · have h0 : m.toNat ≠ 0 := fun h' => h (BitVec.eq_of_toNat_eq h')
    have hk : m.toNat.log2 < 24 := (Nat.log2_lt h0).2 m.isLt
    have hf := fraction_lt (p := 23) h0 m.isLt
    rw [encF, if_neg h, binary32Value_of_toNat (toNat_exponent_or_fraction hf (by omega)) hf (by omega) (by omega)]
    exact congrArg some (normalValue_mantissa (p := 23) (bias := 127) (by omega) h0 m.isLt)

/-! ## The mantissas of a word (R150 to R153) -/

theorem toNat_mantD_shift (v : Quad) : (mantD .shift v).toNat = v.toNat / 2 ^ 11 := by
  rw [mantD, BitVec.extractLsb'_toNat, Nat.shiftRight_eq_div_pow]
  omega

theorem toNat_mantD_mask (v : Quad) : (mantD .mask v).toNat = v.toNat % 2 ^ 53 := by
  rw [mantD, BitVec.extractLsb'_toNat, Nat.shiftRight_zero]

theorem toNat_mantF_shift (v : Quad) : (mantF .shift v).toNat = v.toNat / 2 ^ 40 := by
  rw [mantF, BitVec.extractLsb'_toNat, Nat.shiftRight_eq_div_pow]
  omega

theorem toNat_mantF_mask (v : Quad) : (mantF .mask v).toNat = v.toNat % 2 ^ 24 := by
  rw [mantF, BitVec.extractLsb'_toNat, Nat.shiftRight_zero]

theorem binary64Value_extD (m : ExMode) (v : Quad) :
    binary64Value (extD m v) = some (((mantD m v).toNat : ℚ) / 2 ^ 53) := binary64Value_encD _

theorem binary32Value_extF (m : ExMode) (v : Quad) :
    binary32Value (extF m v) = some (((mantF m v).toNat : ℚ) / 2 ^ 24) := binary32Value_encF _

/-- Settles O50: the pattern stands for the mantissa over 2^53, and the mantissas are the two parts of the word. -/
theorem doubleExtractionIsExact : Obligations.DoubleExtractionIsExact := by
  refine fun v => ⟨?_, ?_⟩
  · rw [binary64Value_extD, toNat_mantD_shift]
  · rw [binary64Value_extD, toNat_mantD_mask]

/-- Settles O51: as O50 with a mantissa of 24 bits. -/
theorem floatExtractionIsExact : Obligations.FloatExtractionIsExact := by
  refine fun v => ⟨?_, ?_⟩
  · rw [binary32Value_extF, toNat_mantF_shift]
  · rw [binary32Value_extF, toNat_mantF_mask]

/-- A number of `n` bits over `2 ^ n` is at most `1 - 2 ^ -n`, and zero or at least `2 ^ -n`. -/
theorem bits_div_two_pow_bounds {n : Nat} (m : BitVec n) :
    0 ≤ (m.toNat : ℚ) / 2 ^ n ∧ (m.toNat : ℚ) / 2 ^ n ≤ 1 - 1 / 2 ^ n ∧
      ((m.toNat : ℚ) / 2 ^ n = 0 ∨ 1 / 2 ^ n ≤ (m.toNat : ℚ) / 2 ^ n) := by
  have hpos : (0 : ℚ) < 2 ^ n := by positivity
  refine ⟨by positivity, ?_, ?_⟩
  · have below : (m.toNat : ℚ) + 1 ≤ 2 ^ n := by exact_mod_cast m.isLt
    rw [one_sub_div hpos.ne', div_le_div_iff_of_pos_right hpos]
    linarith
  · rcases Nat.eq_zero_or_pos m.toNat with h | h
    · exact .inl (by rw [h, Nat.cast_zero, zero_div])
    · exact .inr ((div_le_div_iff_of_pos_right hpos).2 (by exact_mod_cast h))

/-- Settles O52: every result is a mantissa over 2^53 (2^24); the six printed patterns are computed. -/
theorem extractionResultsLieInTheUnitInterval : Obligations.ExtractionResultsLieInTheUnitInterval :=
  ⟨fun m v => ⟨_, binary64Value_extD m v, bits_div_two_pow_bounds _⟩,
    fun m v => ⟨_, binary32Value_extF m v, bits_div_two_pow_bounds _⟩,
    by decide, by decide, by decide, by decide, by decide, by decide⟩

/-! ## NEXT (R158) -/

theorem toNat_topHalf (v : Quad) : (topHalf v).toNat = v.toNat / 2 ^ 32 := by
  rw [topHalf, BitVec.extractLsb'_toNat, Nat.shiftRight_eq_div_pow]
  omega

/-- The top half keeps the sign bit, so the signed readings agree up to the division. -/
theorem toInt_topHalf (v : Quad) : (topHalf v).toInt = v.toInt / 2 ^ 32 := by
  have := toNat_topHalf v
  rw [BitVec.toInt_eq_toNat_cond, BitVec.toInt_eq_toNat_cond]
  split <;> split <;> omega

/-- Settles O53: the sign bit is kept in 32 bits, and the widening to DATA fills with zeros. -/
theorem nextIsTheSignedTopHalf : Obligations.NextIsTheSignedTopHalf := by
  refine fun v => ⟨toInt_topHalf v, BitVec.le_toInt _, BitVec.toInt_lt, ?_, ?_⟩
  · have low : (zext512 (topHalf v)).extractLsb' 0 32 = (topHalf v).extractLsb' 0 32 :=
      BitVec.extractLsb'_setWidth_of_le (by decide)
    rw [low, BitVec.extractLsb'_eq_self, topHalf]
  · refine BitVec.eq_of_getLsbD_eq fun j hj => ?_
    simp [zext512]

/-! ## The conversions (R163, R164) -/

theorem mantD_eq_ite (m : ExMode) (v : Quad) :
    mantD m v = if m = .shift then v.extractLsb' 11 53 else v.extractLsb' 0 53 := by
  cases m <;> rfl

theorem mantF_eq_ite (m : ExMode) (v : Quad) :
    mantF m v = if m = .shift then v.extractLsb' 40 24 else v.extractLsb' 0 24 := by
  cases m <;> rfl

/-- Settles O54: outside the FAULTED state the prologue passes, whatever ALLOC is. -/
theorem conversionsNeedNoGenerator : Obligations.ConversionsNeedNoGenerator := by
  refine fun s v hf => ⟨?_, ?_⟩
  · rw [exec_cvtd, prologue_lawful hf, extD, mantD_eq_ite]
    rfl
  · rw [exec_cvtf, prologue_lawful hf, extF, mantF_eq_ite]
    rfl

/-! ## WRREG (R181) -/

theorem exec_wrreg_lawful {s : State} (hf : s.fault = false) {r : BitVec 8} {v : Quad}
    (hw : (wrregNumberOk r && wrregValueOk v) = true) :
    exec (.wrreg r v) s = .next (respond .ok 0 (writeCfg v s)) := by
  rw [exec_wrreg, hw, prologue_lawful hf]

/-- Settles O56: both values are legal, and bit 0 selects the form. -/
theorem wrregWritesTheExtractionForm : Obligations.WrregWritesTheExtractionForm :=
  fun _ hf => ⟨exec_wrreg_lawful hf rfl, exec_wrreg_lawful hf rfl⟩

end Sys2Proof.Machine
end

section
/-! PROOFS. The statements of 60_exceptions.md: the FAULTED state is sticky (R197) and entered by misuse (R196), the
missing 512-bit path (R193), the three outcomes of a command (R190), and that a run has gone wrong exactly when FAULT is
set (R231). -/

namespace Sys2Proof.Machine

/-! ## The FAULTED state (R197) -/

theorem exec_faulted {s : State} (hf : s.fault = true) (i : Instr) : exec i s = .next (respondFault s) := by
  obtain ⟨body, hbody⟩ := exec_eq_prologue i
  rw [hbody, prologue_faulted hf]

theorem transact_faulted {s : State} (hf : s.fault = true) (c : Command) : transact c s = .next (respondFault s) := by
  cases hd : decode c with
  | error e => rw [transact_undecoded hd, answerIllegal_faulted hf]
  | ok i => rw [transact_decoded hd, exec_faulted hf]

/-- Settles O12: the prologue answers every command; of the host's moves only reset writes FAULT or FCAUSE. -/
theorem faultedStateIsSticky : Obligations.FaultedStateIsSticky := by
  refine fun s hf => ⟨transact_faulted hf, exec_faulted hf, fun t hs => ?_⟩
  rcases step_next hs with ⟨-, rfl⟩ | ⟨c, rest, -, -, ht⟩ | ⟨rest, r, -, -, rfl⟩ | ⟨rest, hh, -⟩
  · exact .inl ⟨hf, rfl⟩
  · rw [transact_faulted (s := { s with host := rest }) hf, outcome_next_inj] at ht
    subst ht
    exact .inl ⟨hf, rfl⟩
  · exact .inl ⟨hf, rfl⟩
  · exact .inr ⟨rest, hh⟩

/-! ## Misuse (R196) and the missing 512-bit path (R193) -/

theorem needsAlloc_free {s : State} (ha : s.alloc = false) (body : State → Outcome) :
    needsAlloc s body = takeFault .useNotAllocated s := by
  rw [needsAlloc, if_neg (ne_true_of_eq_false ha)]

theorem draw_free {s : State} (ha : s.alloc = false) {n : Nat} (result : BitVec (8 * n) → Data) :
    draw n s result = takeFault .useNotAllocated s :=
  needsAlloc_free ha _

theorem needsV512_present {s : State} (hv : s.inst.hasV512 = true) (body : State → Outcome) :
    needsV512 s body = body s := by
  rw [needsV512, if_pos hv]

theorem needsV512_missing {s : State} (hv : s.inst.hasV512 = false) (body : State → Outcome) :
    needsV512 s body = raise .unsupportedOperation s := by
  rw [needsV512, if_neg (ne_true_of_eq_false hv)]

section
variable {s : State} (hf : s.fault = false) (ha : s.alloc = false)
include hf ha

/-- A legal and supported command that touches the stream comes to check 6 of the prologue, which finds no generator. -/
theorem exec_touchesStream_free {i : Instr} (hi : touchesStream i = true) (hwf : i.wf = true)
    (hwide : s.inst.hasV512 = true ∨ (i ≠ .read512 ∧ i ≠ .nextdoubles512)) :
    exec i s = takeFault .useNotAllocated s := by
  cases i with
  | ensure n =>
    rw [exec_ensure, show ensureSizeOk n = true from hwf, prologue_lawful hf, needsAlloc_free ha]
  | nextraw => rw [exec_nextraw, prologue_lawful hf, draw_free ha]
  | read256 => rw [exec_read256, prologue_lawful hf, draw_free ha]
  | read512 =>
    have hv : s.inst.hasV512 = true := hwide.resolve_right fun h => h.1 rfl
    rw [exec_read512, prologue_lawful hf, needsV512_present hv, draw_free ha]
  | next => rw [exec_next, prologue_lawful hf, draw_free ha]
  | nextdouble => rw [exec_nextdouble, prologue_lawful hf, draw_free ha]
  | nextfloat => rw [exec_nextfloat, prologue_lawful hf, draw_free ha]
  | nextdoubles256 => rw [exec_nextdoubles256, prologue_lawful hf, draw_free ha]
  | nextdoubles512 =>
    have hv : s.inst.hasV512 = true := hwide.resolve_right fun h => h.2 rfl
    rw [exec_nextdoubles512, prologue_lawful hf, needsV512_present hv, draw_free ha]
  | _ => cases hi

theorem exec_dispose_free : exec .dispose s = takeFault .disposeNotAllocated s := by
  rw [exec_dispose, prologue_lawful hf, if_neg (ne_true_of_eq_false ha)]

end

theorem zext512_code_useNotAllocated : zext512 Cause.useNotAllocated.code = 1 := by simp [zext512, Cause.code]

theorem zext512_code_disposeNotAllocated : zext512 Cause.disposeNotAllocated.code = 2 := by simp [zext512, Cause.code]

/-- Settles O15: both kinds of misuse take the fault; in the FAULTED state the prologue answers. -/
theorem misuseEntersTheFaultedState : Obligations.MisuseEntersTheFaultedState := by
  refine fun i s ha hwf hwide _ => ⟨fun hf hi => ?_, fun hf hi => ?_, fun hf => exec_faulted hf i⟩
  · rw [exec_touchesStream_free hf ha hi hwf hwide, takeFault_fresh hf, zext512_code_useNotAllocated]
    rfl
  · rw [hi, exec_dispose_free hf ha, takeFault_fresh hf, zext512_code_disposeNotAllocated]
    rfl

/-- Settles O16: check 3 of the prologue comes before the test of ALLOC. -/
theorem missingWidePathIsUnsupported : Obligations.MissingWidePathIsUnsupported := by
  refine fun s hf hv => ⟨?_, ?_⟩
  · rw [exec_read512, prologue_lawful hf, needsV512_missing hv]
    rfl
  · rw [exec_nextdoubles512, prologue_lawful hf, needsV512_missing hv]
    rfl

/-! ## The three outcomes of a command (R190)

`Answered` tells nine ways to end apart by what is written; for the status of the response there are three. -/

/-- The three outcomes of a command that takes `s` to `t` (R190). -/
inductive Concluded (s t : State) : Prop
  | success (hs : s.fault = false) (hfault : t.fault = false) (d : Data) (hr : t.rsp = some ⟨.ok, d⟩)
  | reported (hs : s.fault = false) (st : Status) (hst : st.isCondition = true) (ht : t = respond st 0 s)
  | faulted (cause : BitVec 8)
      (ht : t = { s with fault := true, fcause := cause, rsp := some ⟨.fault, zext512 cause⟩ })

/-- The FAULTED state answers with the fault it is in. -/
theorem concluded_respondFault {s : State} (hf : s.fault = true) : Concluded s (respondFault s) :=
  .faulted s.fcause (by rw [← hf]; rfl)

theorem concluded_of_exec {i : Instr} {s t : State} (h : exec i s = .next t) : Concluded s t := by
  cases answered_of_exec h with
  | sticky hf ht => exact ht ▸ concluded_respondFault hf
  | condition hf st hst ht => exact .reported hf st hst ht
  | misuse hf ha c hi ht => exact .faulted c.code ht
  | reading hf hi d ht => subst ht; exact .success hf hf d rfl
  | wroteCfg hf v hi ht => subst ht; exact .success hf hf 0 rfl
  | constructed hf ha hv seed hi ht => subst ht; exact .success hf hf 0 rfl
  | released hf ha hi ht => subst ht; exact .success hf hf 0 rfl
  | ensured hf ha n hn hi ht =>
    obtain ⟨-, -, hfault, -⟩ := ensureRoom_frame n.toNat s
    subst ht; exact .success hf (hfault.trans hf) 0 rfl
  | drew hf ha n hn hi hb v u d hr ht =>
    obtain ⟨-, -, hfault, -⟩ := readNext_frame hr
    subst ht; exact .success hf (hfault.trans hf) d rfl

theorem concluded_of_transact {c : Command} {s t : State} (h : transact c s = .next t) : Concluded s t := by
  rcases transact_next h with ⟨i, -, he⟩ | ⟨-, hf, rfl⟩ | ⟨-, hf, rfl⟩
  · exact concluded_of_exec he
  · exact concluded_respondFault hf
  · exact .reported hf .illegalCommand rfl rfl

/-- The codes of the reported conditions lie strictly between those of OK and FAULT (R190, R191). -/
theorem code_of_isCondition {st : Status} (h : st.isCondition = true) : 0 < st.code.toNat ∧ st.code.toNat < 15 := by
  cases st with
  | ok => cases h
  | fault => cases h
  | _ => decide

/-- Settles O13: the three outcomes have the codes 0, 1 to 14 and 15. -/
theorem everyCommandEndsInOneOfThreeOutcomes : Obligations.EveryCommandEndsInOneOfThreeOutcomes := by
  intro c s t h
  cases concluded_of_transact h with
  | success hs hfault d hr => exact ⟨_, hr, .inl rfl⟩
  | reported hs st hst ht =>
    obtain ⟨hpos, hlt⟩ := code_of_isCondition hst
    subst ht; exact ⟨⟨st, 0⟩, rfl, .inr (.inl ⟨hpos, hlt, rfl, rfl⟩)⟩
  | faulted cause ht => subst ht; exact ⟨_, rfl, .inr (.inr ⟨rfl, rfl, rfl, rfl⟩)⟩

/-! ## A run has gone wrong (R231) -/

/-- Taking a response does not change which responses the run has given. -/
theorem goneWrong_tookResponse {s : State} {r : Response} (hr : s.rsp = some r) :
    goneWrong (tookResponse r s) = goneWrong s := by
  simp [goneWrong, responsesOfRun, hr]

/-- A command answered from an empty port adds its response to the run. -/
theorem goneWrong_of_response {s t : State} {r : Response} (hs : s.rsp = none) (ht : t.rsp = some r)
    (hreceived : t.received = s.received) : goneWrong t = (goneWrong s || decide (r.status = .fault)) := by
  simp [goneWrong, responsesOfRun, hs, ht, hreceived]

theorem received_of_transact {c : Command} {s t : State} (h : transact c s = .next t) : t.received = s.received := by
  rcases transact_next h with ⟨i, -, he⟩ | ⟨-, -, rfl⟩ | ⟨-, -, rfl⟩
  · obtain ⟨-, -, hreceived, -⟩ := exec_frame he
    exact hreceived
  · rfl
  · rfl

/-- After a command FAULT is set exactly when it was set before or the response is FAULT. -/
theorem Concluded.fault_eq {s t : State} (h : Concluded s t) :
    ∃ r, t.rsp = some r ∧ t.fault = (s.fault || decide (r.status = .fault)) := by
  cases h with
  | success hs hfault d hr => exact ⟨_, hr, by simp [hs, hfault]⟩
  | reported hs st hst ht =>
    have hne : st ≠ .fault := by rintro rfl; cases hst
    subst ht; exact ⟨_, rfl, by simp [hs, hne]⟩
  | faulted cause ht => subst ht; exact ⟨_, rfl, by simp⟩

/-- A command adds a FAULT response to the run exactly when it leaves FAULT set. -/
theorem goneWrong_of_transact {c : Command} {s t : State} (hs : goneWrong s = s.fault) (hr : s.rsp = none)
    (h : transact c s = .next t) : goneWrong t = t.fault := by
  obtain ⟨r, htr, hfault⟩ := (concluded_of_transact h).fault_eq
  calc goneWrong t = (goneWrong s || decide (r.status = .fault)) :=
        goneWrong_of_response hr htr (received_of_transact h)
    _ = (s.fault || decide (r.status = .fault)) := by rw [hs]
    _ = t.fault := hfault.symm

/-- Settles O18: no response is given at reset; of the host's moves a command adds its response and taking one keeps the
list. -/
theorem runHasGoneWrongExactlyWhenFaulted : Obligations.RunHasGoneWrongExactlyWhenFaulted := by
  refine ⟨fun _ => rfl, fun s t h hs => ?_⟩
  rcases step_next hs with ⟨-, rfl⟩ | ⟨c, rest, -, hr, ht⟩ | ⟨rest, r, -, hr, rfl⟩ | ⟨rest, -, rfl⟩
  · exact h
  · exact goneWrong_of_transact (s := { s with host := rest }) h hr ht
  · exact (goneWrong_tookResponse (s := { s with host := rest }) hr).trans h
  · rfl

end Sys2Proof.Machine
end

section
/-! PROOFS. The statement of 70_reset_and_hazards.md: a command presented while a response is outstanding has no
transition (R224). -/

namespace Sys2Proof.Machine

/-- A command may only be presented to an empty port (R224); `hostIssue` stops on any other. -/
theorem hostIssue_outstanding {s : State} {r : Response} (hr : s.rsp = some r) (c : Command) :
    hostIssue c s = .fault .secondCommandOutstanding := by
  simp only [hostIssue, hr]

/-- The step of an issued command is its presentation at the port, whatever stands there. -/
theorem step_eq_hostIssue {s : State} {c : Command} {rest : List HostAction} (hh : s.host = .issue c :: rest) :
    step s = hostIssue c { s with host := rest } := by
  simp only [step, hh]

/-- Settles O8: the step presents the command, and taking the move off the host's list leaves the response outstanding. -/
theorem secondCommandHasNoTransition : Obligations.SecondCommandHasNoTransition := by
  intro s c rest r hh hr
  calc step s = hostIssue c { s with host := rest } := step_eq_hostIssue hh
    _ = .fault .secondCommandOutstanding := hostIssue_outstanding (s := { s with host := rest }) hr c

end Sys2Proof.Machine
end
